-- ==== Sys2Proof/Word.lean ====
section
/-! DEFINITION. The word types of the block (spec/00_scope.md R6, R8): bytes, nibbles, stimulus words,
and the fixed-size byte arrays of 20_memory.md R40. -/

namespace Sys2Proof

/-- A byte, an unsigned 8-bit value (R8). -/
abbrev Byte := BitVec 8

/-- A 4-bit field: a status nibble, a category or a filter mask. -/
abbrev Nibble := BitVec 4

/-- A 32-bit stimulus word (30_encoding.md R66) or result word (R62). -/
abbrev Word := BitVec 32

/-- A 4-byte USB-MIDI event packet, byte 0 first (20_memory.md R42). -/
abbrev Packet := Vector Byte 4

end Sys2Proof
end

