-- ==== Sys2Proof/Config.lean ====
section
/-! DEFINITION. The implementation parameters of spec/00_scope.md R6 at the values this hardware takes, the names of
the agents that can move (R5, 60_exceptions.md R148), and the free values: what the spec leaves to a
collaborator or to the schedule (93_implementation_defined.md I8, I11), as constants without a body. -/

namespace Sys2Proof

namespace Config

/-- `RELAY_LEN`: bytes in one received buffer. -/
abbrev relayLen : Nat := 64
/-- `CABLE`: the cable number of every outbound packet. -/
def cable : Nibble := 0x0#4
/-- `ENC_CHANNEL`: the channel of the status byte the encoder writes. -/
def encChannel : Nibble := 0x0#4
/-- `BUDGET_BITS`: the width of the signed budget. -/
abbrev budgetBits : Nat := 8
/-- `BUD_MIN` = -2^(BUDGET_BITS-1): the floor at which the budget saturates. -/
def budMin : Int := -128
/-- `MARK3`: the marker that sets the budget to 3. -/
def mark3 : Byte := 0x04#8
/-- `MARK1`: the marker that sets the budget to 1. -/
def mark1 : Byte := 0x05#8
/-- `EOX`: End-of-Exclusive. -/
def eox : Byte := 0xF7#8
/-- `FLT_RESET`: the reset value of both filter registers. -/
def fltReset : Nibble := 0xF#4

end Config

/-- One received buffer of `RELAY_LEN` bytes (10_state.md R33). -/
abbrev Buffer := Vector Byte Config.relayLen

/-- The budget register: `BUDGET_BITS` bits, read as two's complement (10_state.md R28). -/
abbrev Budget := BitVec Config.budgetBits

/-- The collaborators that offer stimuli (60_exceptions.md R148). The serial transmitter offers none. -/
inductive Collaborator where
  | taskLoop
  | usbReceive
  | usbTransmit
  | resetSource
  deriving DecidableEq, Repr, Inhabited

/-- Who moves: a collaborator whose offered stimulus is tried, or one of the core's two internal
steps (R5; the candidates of 60_exceptions.md R139). -/
inductive Agent where
  | offer (c : Collaborator)
  | txSend
  | relay
  deriving DecidableEq, Repr, Inhabited

/-- The answer of `trySend` (10_state.md R37). -/
inductive SendAnswer where
  | accepted
  | busy
  deriving DecidableEq, Repr, Inhabited

namespace Config

/-- FREE VALUE (log 3): which agent moves when the schedule list of the state is empty, by draw number. R139: "which
one is not fixed". -/
opaque freeAgent : Nat → Agent
/-- FREE VALUE (log 4): the answer of `transmitReady` when the state lists none, by draw number. R125: "a
collaborator draw". -/
opaque freeReady : Nat → Bool
/-- FREE VALUE (log 4): the answer of `trySend` when the state lists none, by draw number. R112: "collaborator draw". -/
opaque freeSend : Nat → SendAnswer

end Config

end Sys2Proof
end

