-- ==== Sys2Proof/Syntax.lean ====
section
/-! DEFINITION. The instructions: one constructor per row of spec/opcode_table.json, in the table's order. An operand is the
row's free bits, so a stimulus has no ill-formed operand: a PARSE class holds the bits of its byte that the
row's mask leaves open, ENCODE.NOP (four rows) the open bits of its nibble. -/

namespace Sys2Proof

inductive Instr where
  /-- PARSE.DATA, 41_parser.md R100: the 7-bit data value. -/
  | parseData (d : BitVec 7)
  /-- PARSE.NOTEOFF, R88: the channel. -/
  | parseNoteOff (c : BitVec 4)
  /-- PARSE.NOTEON, R89. -/
  | parseNoteOn (c : BitVec 4)
  /-- PARSE.POLYKP, R90. -/
  | parsePolyKp (c : BitVec 4)
  /-- PARSE.CC, R91. -/
  | parseCc (c : BitVec 4)
  /-- PARSE.PC, R92. -/
  | parsePc (c : BitVec 4)
  /-- PARSE.CHP, R93. -/
  | parseChp (c : BitVec 4)
  /-- PARSE.PB, R94. -/
  | parsePb (c : BitVec 4)
  /-- PARSE.SOX, R87. -/
  | parseSox
  /-- PARSE.MTC, R95. -/
  | parseMtc
  /-- PARSE.SPP, R96. -/
  | parseSpp
  /-- PARSE.SS, R97. -/
  | parseSs
  /-- PARSE.UNDEF, R98: 0 for 0xF4, 1 for 0xF5. -/
  | parseUndef (x : BitVec 1)
  /-- PARSE.TUNE, R99. -/
  | parseTune
  /-- PARSE.EOX, R86. -/
  | parseEox
  /-- PARSE.RT, R85: the low three bits of 0xF8 to 0xFF. -/
  | parseRt (x : BitVec 3)
  /-- ENCODE.NOTEOFF, 42_encoder.md R107: pitch and velocity. -/
  | encodeNoteOff (d1 d2 : Byte)
  /-- ENCODE.NOTEON, R108. -/
  | encodeNoteOn (d1 d2 : Byte)
  /-- ENCODE.PB, R109. -/
  | encodePb (d1 d2 : Byte)
  /-- ENCODE.NOP, R110, the row n in 0x0-0x7. -/
  | encodeNop07 (n : BitVec 3) (d1 d2 : Byte)
  /-- ENCODE.NOP, R110, the row n in 0xA-0xB. -/
  | encodeNopAB (n : BitVec 1) (d1 d2 : Byte)
  /-- ENCODE.NOP, R110, the row n in 0xC-0xD. -/
  | encodeNopCD (n : BitVec 1) (d1 d2 : Byte)
  /-- ENCODE.NOP, R110, the row n = 0xF. -/
  | encodeNopF (d1 d2 : Byte)
  /-- SETFILTER, 44_control.md R127. -/
  | setFilter (mask : Nibble)
  /-- RXBUF, 43_relay.md R115: the 64 bytes that travel with the word. -/
  | rxbuf (buf : Buffer)
  /-- TXDONE, 42_encoder.md R113. -/
  | txDone
  /-- RESET, 70_reset_and_hazards.md R149. -/
  | reset
  /-- RELAY.MARK3, 43_relay.md R118: the byte 0x04 while the budget is 0. Internal. -/
  | relayMark3
  /-- RELAY.MARK1, R119: the byte 0x05 while the budget is 0. Internal. -/
  | relayMark1
  /-- RELAY.EOX, R120: the byte 0xF7. Internal. -/
  | relayEox
  /-- RELAY.BYTE, R121: any other byte. Internal. -/
  | relayByte (b : Byte)
  /-- TXSEND, 42_encoder.md R112. Internal. -/
  | txSend
  deriving DecidableEq, Repr

end Sys2Proof
end

