-- ==== Sys2Proof/WellFormed.lean ====
section
/-! DEFINITION. Which terms of `Instr` are instructions. The operand types leave one check: RELAY.BYTE never
holds 0xF7, which is RELAY.EOX at every budget (spec/43_relay.md R120, R121). -/

namespace Sys2Proof

/-- R121: "`b` where `b != 0xF7`". Every other constructor is well formed at every operand. -/
def Instr.wf : Instr → Bool
  | .relayByte b => b != Config.eox
  | .parseData _ | .parseNoteOff _ | .parseNoteOn _ | .parsePolyKp _ | .parseCc _ | .parsePc _
  | .parseChp _ | .parsePb _ | .parseSox | .parseMtc | .parseSpp | .parseSs | .parseUndef _
  | .parseTune | .parseEox | .parseRt _ => true
  | .encodeNoteOff _ _ | .encodeNoteOn _ _ | .encodePb _ _ | .encodeNop07 _ _ _
  | .encodeNopAB _ _ _ | .encodeNopCD _ _ _ | .encodeNopF _ _ => true
  | .setFilter _ | .rxbuf _ | .txDone | .reset => true
  | .relayMark3 | .relayMark1 | .relayEox | .txSend => true

end Sys2Proof
end

