-- ==== Sys2Proof/Decode.lean ====
section
/-! DEFINITION. Decoding and encoding (spec/30_encoding.md R55 to R57, R66, R67, R71) and the opcode table's rows.
A stimulus is a 32-bit word with the 64-byte out-of-band operand that RXBUF takes from it; a RELAY step's
instruction is the buffer byte it visits, classed with the budget (43_relay.md R117); TXSEND has no bits. -/

namespace Sys2Proof

/-- `{hi, lo}` of 00_scope.md R8: the byte of two nibbles. -/
def byteOfNibbles (hi lo : Nibble) : Byte := hi ++ lo

/-- A data byte: bit 7 is 0, `d` is its 7-bit value (R55). -/
def dataByte (d : BitVec 7) : Byte := 0#1 ++ d

/-- The channel-voice status byte of message type `n` on channel `c` (R56). -/
def voiceByte (n c : Nibble) : Byte := byteOfNibbles n c

/-- The real-time byte 0xF8 + x (R57). -/
def realTimeByte (x : BitVec 3) : Byte := 0x1F#5 ++ x

/-- 0xF4 or 0xF5 (R57). -/
def undefByte (x : BitVec 1) : Byte := 0x7A#7 ++ x

/-- What the core takes its next instruction from. -/
inductive Fetched where
  /-- a stimulus word and the buffer that travels with it (R66) -/
  | stimulus (word : Word) (buf : Buffer)
  /-- the buffer byte a RELAY step visits -/
  | relay (b : Byte)
  /-- the hand-off of the packet slot: TXSEND, which has no bits -/
  | handOff
  deriving DecidableEq, Repr

/-- Why a decoding is refused (R67). -/
inductive DecodeError where
  | illegalStimulus (w : Word)
  deriving DecidableEq, Repr

/-- R71, OP = 0x0: the class of a PARSE byte. -/
def decodeParse (b : Byte) : Instr :=
  let hi := b.extractLsb' 4 4
  let lo := b.extractLsb' 0 4
  if b.extractLsb' 7 1 = 0#1 then .parseData (b.extractLsb' 0 7)
  else if hi = 0x8#4 then .parseNoteOff lo
  else if hi = 0x9#4 then .parseNoteOn lo
  else if hi = 0xA#4 then .parsePolyKp lo
  else if hi = 0xB#4 then .parseCc lo
  else if hi = 0xC#4 then .parsePc lo
  else if hi = 0xD#4 then .parseChp lo
  else if hi = 0xE#4 then .parsePb lo
  else if lo = 0x0#4 then .parseSox
  else if lo = 0x1#4 then .parseMtc
  else if lo = 0x2#4 then .parseSpp
  else if lo = 0x3#4 then .parseSs
  else if lo = 0x4#4 then .parseUndef 0#1
  else if lo = 0x5#4 then .parseUndef 1#1
  else if lo = 0x6#4 then .parseTune
  else if lo = 0x7#4 then .parseEox
  else .parseRt (b.extractLsb' 0 3)

/-- R71, OP = 0x1: the class of an ENCODE nibble. -/
def decodeEncode (n : Nibble) (d1 d2 : Byte) : Instr :=
  if n = 0x8#4 then .encodeNoteOff d1 d2
  else if n = 0x9#4 then .encodeNoteOn d1 d2
  else if n = 0xE#4 then .encodePb d1 d2
  else if n = 0xF#4 then .encodeNopF d1 d2
  else if n.extractLsb' 1 3 = 0x5#3 then .encodeNopAB (n.extractLsb' 0 1) d1 d2
  else if n.extractLsb' 1 3 = 0x6#3 then .encodeNopCD (n.extractLsb' 0 1) d1 d2
  else .encodeNop07 (n.extractLsb' 0 3) d1 d2

/-- R66, R67: the instruction a stimulus word spells, or the refusal that names the word. `buf` is the
out-of-band operand, read by RXBUF only. -/
def decodeStimulus (w : Word) (buf : Buffer) : Except DecodeError Instr :=
  let op := w.extractLsb' 28 4
  if op = 0x0#4 then
    if w.extractLsb' 8 20 = 0#20 then .ok (decodeParse (w.extractLsb' 0 8))
    else .error (.illegalStimulus w)
  else if op = 0x1#4 then
    if w.extractLsb' 20 8 = 0#8 then
      .ok (decodeEncode (w.extractLsb' 16 4) (w.extractLsb' 8 8) (w.extractLsb' 0 8))
    else .error (.illegalStimulus w)
  else if op = 0x2#4 then
    if w.extractLsb' 4 24 = 0#24 then .ok (.setFilter (w.extractLsb' 0 4))
    else .error (.illegalStimulus w)
  else if op = 0x3#4 then
    if w.extractLsb' 0 28 = 0#28 then .ok (.rxbuf buf) else .error (.illegalStimulus w)
  else if op = 0x4#4 then
    if w.extractLsb' 0 28 = 0#28 then .ok .txDone else .error (.illegalStimulus w)
  else if op = 0x5#4 then
    if w.extractLsb' 0 28 = 0#28 then .ok .reset else .error (.illegalStimulus w)
  else .error (.illegalStimulus w)

/-- 43_relay.md R117: the class of a visited buffer byte. The tests stand in the rule's order, and the markers
are markers only while the budget is 0 (`budZero`). -/
def decodeRelay (budZero : Bool) (b : Byte) : Instr :=
  if budZero && b == Config.mark3 then .relayMark3
  else if budZero && b == Config.mark1 then .relayMark1
  else if b = Config.eox then .relayEox
  else .relayByte b

/-- Decoding, total on everything that can be fetched. -/
def decode (budZero : Bool) : Fetched → Except DecodeError Instr
  | .stimulus w buf => decodeStimulus w buf
  | .relay b => .ok (decodeRelay budZero b)
  | .handOff => .ok .txSend

/-! ## The encoder, from the same tables -/

/-- The buffer of zeros: the out-of-band operand of a stimulus that has none (R69: "`fill 00` if omitted"). -/
def zeroBuffer : Buffer := Vector.replicate Config.relayLen 0x00#8

/-- The PARSE word of a byte: OP 0x0, reserved bits 0 (R66). -/
def parseWord (b : Byte) : Word := 0x0#4 ++ 0#20 ++ b

/-- The ENCODE word: OP 0x1, reserved bits 0 (R66). -/
def encodeWord (n : Nibble) (d1 d2 : Byte) : Word := 0x1#4 ++ 0#8 ++ n ++ d1 ++ d2

/-- The SETFILTER word: OP 0x2 (R66). -/
def setFilterWord (mask : Nibble) : Word := 0x2#4 ++ 0#24 ++ mask

/-- A stimulus with no buffer of its own. -/
def plainStimulus (w : Word) : Fetched := .stimulus w zeroBuffer

/-- The words of an instruction. -/
def encode : Instr → Fetched
  | .parseData d => plainStimulus (parseWord (dataByte d))
  | .parseNoteOff c => plainStimulus (parseWord (voiceByte 0x8#4 c))
  | .parseNoteOn c => plainStimulus (parseWord (voiceByte 0x9#4 c))
  | .parsePolyKp c => plainStimulus (parseWord (voiceByte 0xA#4 c))
  | .parseCc c => plainStimulus (parseWord (voiceByte 0xB#4 c))
  | .parsePc c => plainStimulus (parseWord (voiceByte 0xC#4 c))
  | .parseChp c => plainStimulus (parseWord (voiceByte 0xD#4 c))
  | .parsePb c => plainStimulus (parseWord (voiceByte 0xE#4 c))
  | .parseSox => plainStimulus (parseWord 0xF0#8)
  | .parseMtc => plainStimulus (parseWord 0xF1#8)
  | .parseSpp => plainStimulus (parseWord 0xF2#8)
  | .parseSs => plainStimulus (parseWord 0xF3#8)
  | .parseUndef x => plainStimulus (parseWord (undefByte x))
  | .parseTune => plainStimulus (parseWord 0xF6#8)
  | .parseEox => plainStimulus (parseWord 0xF7#8)
  | .parseRt x => plainStimulus (parseWord (realTimeByte x))
  | .encodeNoteOff d1 d2 => plainStimulus (encodeWord 0x8#4 d1 d2)
  | .encodeNoteOn d1 d2 => plainStimulus (encodeWord 0x9#4 d1 d2)
  | .encodePb d1 d2 => plainStimulus (encodeWord 0xE#4 d1 d2)
  | .encodeNop07 n d1 d2 => plainStimulus (encodeWord (0#1 ++ n) d1 d2)
  | .encodeNopAB n d1 d2 => plainStimulus (encodeWord (0x5#3 ++ n) d1 d2)
  | .encodeNopCD n d1 d2 => plainStimulus (encodeWord (0x6#3 ++ n) d1 d2)
  | .encodeNopF d1 d2 => plainStimulus (encodeWord 0xF#4 d1 d2)
  | .setFilter mask => plainStimulus (setFilterWord mask)
  | .rxbuf buf => .stimulus 0x30000000#32 buf
  | .txDone => plainStimulus 0x40000000#32
  | .reset => plainStimulus 0x50000000#32
  | .relayMark3 => .relay Config.mark3
  | .relayMark1 => .relay Config.mark1
  | .relayEox => .relay Config.eox
  | .relayByte b => .relay b
  | .txSend => .handOff

/-- At which budgets an instruction's words mean it: the `cond` of the relay rows (opcode_table.json). -/
def Instr.budgetCond : Instr → Bool → Bool
  | .relayMark3, z => z
  | .relayMark1, z => z
  | .relayByte b, z => !(z && (b == Config.mark3 || b == Config.mark1))
  | .parseData _, _ | .parseNoteOff _, _ | .parseNoteOn _, _ | .parsePolyKp _, _ | .parseCc _, _
  | .parsePc _, _ | .parseChp _, _ | .parsePb _, _ | .parseSox, _ | .parseMtc, _ | .parseSpp, _
  | .parseSs, _ | .parseUndef _, _ | .parseTune, _ | .parseEox, _ | .parseRt _, _
  | .encodeNoteOff _ _, _ | .encodeNoteOn _ _, _ | .encodePb _ _, _ | .encodeNop07 _ _ _, _
  | .encodeNopAB _ _ _, _ | .encodeNopCD _ _ _, _ | .encodeNopF _ _, _ | .setFilter _, _
  | .rxbuf _, _ | .txDone, _ | .reset, _ | .relayEox, _ | .txSend, _ => true

/-! ## The opcode table's rows -/

/-- One row of opcode_table.json: `word &&& mask = pattern`. `bits` is the width the match applies to:
32 for a stimulus word, 8 for a relay byte, 0 for TXSEND. -/
structure OpRow where
  mnemonic : String
  pattern : Word
  mask : Word
  bits : Nat
  deriving DecidableEq, Repr

/-- The table row of each constructor, as opcode_table.json has it. -/
def Instr.row : Instr → OpRow
  | .parseData _ => ⟨"PARSE.DATA", 0x00000000, 0xFFFFFF80, 32⟩
  | .parseNoteOff _ => ⟨"PARSE.NOTEOFF", 0x00000080, 0xFFFFFFF0, 32⟩
  | .parseNoteOn _ => ⟨"PARSE.NOTEON", 0x00000090, 0xFFFFFFF0, 32⟩
  | .parsePolyKp _ => ⟨"PARSE.POLYKP", 0x000000A0, 0xFFFFFFF0, 32⟩
  | .parseCc _ => ⟨"PARSE.CC", 0x000000B0, 0xFFFFFFF0, 32⟩
  | .parsePc _ => ⟨"PARSE.PC", 0x000000C0, 0xFFFFFFF0, 32⟩
  | .parseChp _ => ⟨"PARSE.CHP", 0x000000D0, 0xFFFFFFF0, 32⟩
  | .parsePb _ => ⟨"PARSE.PB", 0x000000E0, 0xFFFFFFF0, 32⟩
  | .parseSox => ⟨"PARSE.SOX", 0x000000F0, 0xFFFFFFFF, 32⟩
  | .parseMtc => ⟨"PARSE.MTC", 0x000000F1, 0xFFFFFFFF, 32⟩
  | .parseSpp => ⟨"PARSE.SPP", 0x000000F2, 0xFFFFFFFF, 32⟩
  | .parseSs => ⟨"PARSE.SS", 0x000000F3, 0xFFFFFFFF, 32⟩
  | .parseUndef _ => ⟨"PARSE.UNDEF", 0x000000F4, 0xFFFFFFFE, 32⟩
  | .parseTune => ⟨"PARSE.TUNE", 0x000000F6, 0xFFFFFFFF, 32⟩
  | .parseEox => ⟨"PARSE.EOX", 0x000000F7, 0xFFFFFFFF, 32⟩
  | .parseRt _ => ⟨"PARSE.RT", 0x000000F8, 0xFFFFFFF8, 32⟩
  | .encodeNoteOff _ _ => ⟨"ENCODE.NOTEOFF", 0x10080000, 0xFFFF0000, 32⟩
  | .encodeNoteOn _ _ => ⟨"ENCODE.NOTEON", 0x10090000, 0xFFFF0000, 32⟩
  | .encodePb _ _ => ⟨"ENCODE.PB", 0x100E0000, 0xFFFF0000, 32⟩
  | .encodeNop07 _ _ _ => ⟨"ENCODE.NOP", 0x10000000, 0xFFF80000, 32⟩
  | .encodeNopAB _ _ _ => ⟨"ENCODE.NOP", 0x100A0000, 0xFFFE0000, 32⟩
  | .encodeNopCD _ _ _ => ⟨"ENCODE.NOP", 0x100C0000, 0xFFFE0000, 32⟩
  | .encodeNopF _ _ => ⟨"ENCODE.NOP", 0x100F0000, 0xFFFF0000, 32⟩
  | .setFilter _ => ⟨"SETFILTER", 0x20000000, 0xFFFFFFF0, 32⟩
  | .rxbuf _ => ⟨"RXBUF", 0x30000000, 0xFFFFFFFF, 32⟩
  | .txDone => ⟨"TXDONE", 0x40000000, 0xFFFFFFFF, 32⟩
  | .reset => ⟨"RESET", 0x50000000, 0xFFFFFFFF, 32⟩
  | .relayMark3 => ⟨"RELAY.MARK3", 0x00000004, 0x000000FF, 8⟩
  | .relayMark1 => ⟨"RELAY.MARK1", 0x00000005, 0x000000FF, 8⟩
  | .relayEox => ⟨"RELAY.EOX", 0x000000F7, 0x000000FF, 8⟩
  | .relayByte _ => ⟨"RELAY.BYTE", 0x00000000, 0x00000000, 8⟩
  | .txSend => ⟨"TXSEND", 0x00000000, 0x00000000, 0⟩

/-- The rows of the PARSE stimulus words. -/
def parseRows : List OpRow :=
  [(Instr.parseData 0#7).row, (Instr.parseNoteOff 0#4).row, (Instr.parseNoteOn 0#4).row,
   (Instr.parsePolyKp 0#4).row, (Instr.parseCc 0#4).row, (Instr.parsePc 0#4).row,
   (Instr.parseChp 0#4).row, (Instr.parsePb 0#4).row, Instr.parseSox.row, Instr.parseMtc.row,
   Instr.parseSpp.row, Instr.parseSs.row, (Instr.parseUndef 0#1).row, Instr.parseTune.row,
   Instr.parseEox.row, (Instr.parseRt 0#3).row]

/-- The rows of the ENCODE stimulus words. -/
def encodeRows : List OpRow :=
  [(Instr.encodeNoteOff 0#8 0#8).row, (Instr.encodeNoteOn 0#8 0#8).row, (Instr.encodePb 0#8 0#8).row,
   (Instr.encodeNop07 0#3 0#8 0#8).row, (Instr.encodeNopAB 0#1 0#8 0#8).row,
   (Instr.encodeNopCD 0#1 0#8 0#8).row, (Instr.encodeNopF 0#8 0#8).row]

/-- The rows of the other stimulus words. -/
def controlRows : List OpRow :=
  [(Instr.setFilter 0#4).row, (Instr.rxbuf zeroBuffer).row, Instr.txDone.row, Instr.reset.row]

/-- The rows of all stimulus words (R71). -/
def stimulusRows : List OpRow := parseRows ++ (encodeRows ++ controlRows)

/-- A word fits a row. -/
def OpRow.covers (r : OpRow) (w : Word) : Bool := w &&& r.mask == r.pattern

/-! ## The table's numbering of bits -/

/-- The buffer whose byte `k` is bits 8k+7 .. 8k of `n`. -/
def bufferOfNat (n : Nat) : Buffer :=
  ⟨((List.range Config.relayLen).map (fun k => BitVec.ofNat 8 (n >>> (8 * k)))).toArray, by simp⟩

/-- What an instruction of `nbits` table bits `w` is fetched as: no bits are TXSEND, up to one byte is a relay
byte (`"format": "INTERNAL"`), more is a stimulus word followed by its out-of-band buffer. Bits above
`nbits` are 0. -/
def fetchedOfTable (nbits w : Nat) : Fetched :=
  if nbits = 0 then .handOff
  else if nbits ≤ 8 then .relay (BitVec.ofNat 8 (w % 2 ^ nbits))
  else .stimulus (BitVec.ofNat 32 (w % 2 ^ nbits)) (bufferOfNat ((w % 2 ^ nbits) >>> 32))

/-- The instruction the decoder reads from table bits. A relay byte is classed at budget 0, where its row's
`cond` lets the markers be markers. -/
def decodeTableWord (nbits w : Nat) : Option Instr :=
  match decode true (fetchedOfTable nbits w) with
  | .ok i => some i
  | .error _ => none

end Sys2Proof
end

