-- ==== Sys2Proof/Machine/State.lean ====
section
/-! DEFINITION. The state of the block (spec/10_state.md R10 to R39), the reasons a step stops, and the state after
reset (70_reset_and_hazards.md R149). The two units share no register (R12), so each is a structure of its own. -/

namespace Sys2Proof.Machine

/-- The SysEx state (R14). The 2-bit value 3 is "never written", so it has no name here (log 10). -/
inductive SysEx where
  | inactive
  | active
  | errored
  deriving DecidableEq, Repr, Inhabited

/-- The error kinds of a parse result (30_encoding.md R63). -/
inductive ErrorKind where
  | unterminatedSysEx
  | dataByteWithoutStatus
  deriving DecidableEq, Repr

/-- What one PARSE returns (30_encoding.md R61). -/
inductive Result where
  | pending
  | complete (msg : List Byte) (len : BitVec 2) (cat : Nibble)
  | sysExByte (b : Byte) (first last : Bool)
  | error (kind : ErrorKind) (b : Byte)
  deriving DecidableEq, Repr

/-- A call the core makes, with the collaborator's answer (R37). -/
inductive Call where
  | trySend (p : Packet) (answer : SendAnswer)
  | transmitReady (answer : Bool)
  | transmitByte (b : Byte)
  | requestNextBuffer
  deriving DecidableEq, Repr

/-- Why the machine stops. The first three are the model faults of 60_exceptions.md R136. -/
inductive Fault where
  /-- raised by RXBUF while a scan is active (43_relay.md R115); safe: it removes runs (R136) -/
  | rxOverrun
  /-- raised by TXDONE while no packet is in flight (42_encoder.md R113); safe -/
  | txDoneSpurious
  /-- raised by the status table on a byte below 0x80 (40_status_table.md R75), by an outside caller, or by a
  PARSE in a state that breaks R25; safe -/
  | tableDomain (s : Byte)
  /-- raised by a PARSE data byte that would go to `ACC[3]`, which does not exist (20_memory.md R40), in a state
  that breaks R25 only (log 7); safe -/
  | accOutOfRange
  deriving DecidableEq, Repr

/-- Why a step has no meaning. -/
inductive Refusal where
  /-- raised by `exec` for an instruction without a meaning yet; none is left; safe -/
  | notModelled (mnemonic : String)
  /-- raised by `step` for a stimulus word that spells no stimulus (30_encoding.md R67); safe -/
  | illegalStimulus (w : Word)
  deriving DecidableEq, Repr

/-- The holds of 60_exceptions.md R137. -/
inductive Hold where
  | relayBusy
  | txSlotFull
  | txInflight
  | txBusy
  | serialNotReady
  deriving DecidableEq, Repr

/-- The Parser unit (R12). -/
structure Parser where
  /-- `RS`, running status; 0x00 is none (R13) -/
  rs : Byte
  /-- `SXS`, the SysEx state (R14) -/
  sxs : SysEx
  /-- `SXF`, the next data byte is the first of the open SysEx (R15) -/
  sxf : Bool
  /-- `ACC[0..2]`, the accumulation buffer (R16) -/
  acc : Vector Byte 3
  /-- `ACC_N`, how many bytes of the message in progress `ACC` holds (R17) -/
  accN : BitVec 2
  /-- `REQ`, the required length (R18) -/
  req : BitVec 2
  /-- `FLT_PEND`, the pending filter (R19) -/
  fltPend : Nibble
  /-- `FLT`, the active filter (R20) -/
  flt : Nibble
  /-- `LAST_CAT`, the category of the last completed message; 0 is none (R21) -/
  lastCat : Nibble
  /-- `WAS_SX`, the SysEx mode before the last PARSE (R22) -/
  wasSx : Bool
  deriving DecidableEq, Repr

/-- The Framer unit (R12). -/
structure Framer where
  /-- `TXS`, the packet slot is full (R26) -/
  txs : Bool
  /-- `TXP[0..3]`, the packet slot (R27) -/
  txp : Packet
  /-- `TX_INFL`, a packet is in flight (R30) -/
  txInfl : Bool
  /-- `BUD`, the SysEx byte budget, two's complement (R28) -/
  bud : Budget
  /-- `BUF_UF`, BudgetUnderflow, sticky (R29) -/
  bufUf : Bool
  /-- `RLY_ACT`, a relay scan is active (R31) -/
  rlyAct : Bool
  /-- `RLY_IDX`, the next buffer byte the relay visits (R32) -/
  rlyIdx : BitVec 6
  /-- `RXBUF[0..63]`, the latched receive buffer (R33) -/
  rxbuf : Buffer
  deriving DecidableEq, Repr

/-- A stimulus on offer (30_encoding.md R66, R69): who offers it, its word, and the buffer that travels with it. -/
structure Offer where
  source : Collaborator
  word : Word
  buf : Buffer
  deriving DecidableEq, Repr

/-- MODEL'S OWN (logs 2, 3, 4): what the collaborators will do, as plain data. A claim about every state is a
claim about every behaviour of theirs. -/
structure Env where
  /-- the stimuli on offer, in program order; a collaborator's first one is the one it offers now -/
  offers : List Offer
  /-- who moves next (60_exceptions.md R139) -/
  schedule : List Agent
  /-- the next answers of `transmitReady` (43_relay.md R125) -/
  readyAnswers : List Bool
  /-- the next answers of `trySend` (42_encoder.md R112) -/
  sendAnswers : List SendAnswer
  /-- how many free values have been drawn -/
  draws : Nat
  deriving DecidableEq, Repr

/-- The sequences of an end state (70_reset_and_hazards.md R164), oldest first. -/
structure Log where
  /-- the results returned, one per PARSE taken -/
  results : List Result
  /-- the calls made, with their answers -/
  calls : List Call
  deriving DecidableEq, Repr

structure State where
  parser : Parser
  framer : Framer
  env : Env
  log : Log
  /-- `faulted` (R39): the fault raised, if any -/
  faulted : Option Fault
  deriving DecidableEq, Repr

/-- The status outputs of 10_state.md R38. `curCat` needs the status table, whose domain may fail in a state that
breaks R25. -/
structure StatusOutputs where
  isSx : Bool
  wasSx : Bool
  curCat : Except Fault Nibble
  lastCat : Nibble
  sxs : BitVec 2
  rs : Byte
  flt : Nibble
  fltPend : Nibble
  bud : Int
  bufUf : Bool
  txs : Bool
  txInfl : Bool
  busy : Bool
  deriving DecidableEq, Repr

/-- The Parser unit after reset (R149). `ACC` and `REQ` have no value in the spec: zero (log 1). -/
def Parser.reset : Parser where
  rs := 0x00#8
  sxs := .inactive
  sxf := false
  acc := Vector.replicate 3 0x00#8
  accN := 0#2
  req := 0#2
  fltPend := Config.fltReset
  flt := Config.fltReset
  lastCat := 0x0#4
  wasSx := false

/-- The Framer unit after reset (R149). `RXBUF` has no value in the spec: zero (log 1). -/
def Framer.reset : Framer where
  txs := false
  txp := Vector.replicate 4 0x00#8
  txInfl := false
  bud := 0#8
  bufUf := false
  rlyAct := false
  rlyIdx := 0#6
  rxbuf := zeroBuffer

/-- Nothing on offer, nothing scheduled, no answer given (logs 2, 3, 4). -/
def Env.reset : Env where
  offers := []
  schedule := []
  readyAnswers := []
  sendAnswers := []
  draws := 0

/-- No result returned, no call made (log 9). -/
def Log.reset : Log where
  results := []
  calls := []

/-- The machine right after reset (R149, and R39 for `faulted`). -/
def State.reset : State where
  parser := Parser.reset
  framer := Framer.reset
  env := Env.reset
  log := Log.reset
  faulted := none

end Sys2Proof.Machine
end

