-- ==== Sys2Proof/Machine/Ops.lean ====
section
/-! DEFINITION. The shared operations: raising a fault, holding a step, the collaborators' answers, the calls, and the
reads and writes of the three byte arrays (spec/20_memory.md R40, R41). -/

namespace Sys2Proof.Machine

/-- What a step answers. -/
abbrev StepOutcome := Host.Outcome State Fault Refusal

/-! ## Faults and holds -/

/-- 60_exceptions.md R136: "the step that raised it makes no other change. The model records the fault name in
`faulted`". There is no other exception entry: nothing traps (R131, R141). -/
def raiseFault (f : Fault) (s : State) : StepOutcome := .next { s with faulted := some f }

/-- R136: "A faulted state has no further step of any kind, RESET included". -/
def unlessFaulted (s : State) (k : State → StepOutcome) : StepOutcome :=
  match s.faulted with
  | some f => .fault f
  | none => k s

/-- R137: "A held step is not taken. It changes nothing, stays offered". The hold's name is for the reader. -/
def heldStep (_h : Hold) (s : State) : StepOutcome := .next s

/-- A step that is not enabled is not taken: nothing changes (60_exceptions.md R147, log 5). -/
def idleStep (s : State) : StepOutcome := .next s

/-- The hold RelayBusy of R137: `k` runs only while no scan is active. -/
def unlessRelayBusy (s : State) (k : State → StepOutcome) : StepOutcome :=
  if s.framer.rlyAct then heldStep .relayBusy s else k s

/-! ## Parts of the state -/

def State.setParser (s : State) (p : Parser) : State := { s with parser := p }
def State.setFramer (s : State) (f : Framer) : State := { s with framer := f }
def State.setEnv (s : State) (e : Env) : State := { s with env := e }

/-- A PARSE returns its result (30_encoding.md R61). -/
def State.returnResult (s : State) (r : Result) : State :=
  { s with log := { s.log with results := s.log.results ++ [r] } }

/-- The core calls a collaborator (10_state.md R37). -/
def State.call (s : State) (c : Call) : State :=
  { s with log := { s.log with calls := s.log.calls ++ [c] } }

/-! ## The collaborators' answers: a listed one, else a free value (93_implementation_defined.md I8) -/

/-- The next answer of `transmitReady`, and the inputs left. -/
def Env.nextReady (e : Env) : Bool × Env :=
  match e.readyAnswers with
  | a :: rest => (a, { e with readyAnswers := rest })
  | [] => (Config.freeReady e.draws, { e with draws := e.draws + 1 })

/-- The next answer of `trySend`, and the inputs left. -/
def Env.nextSend (e : Env) : SendAnswer × Env :=
  match e.sendAnswers with
  | a :: rest => (a, { e with sendAnswers := rest })
  | [] => (Config.freeSend e.draws, { e with draws := e.draws + 1 })

/-- The agent that moves next, and the inputs left (60_exceptions.md R139). -/
def Env.nextAgent (e : Env) : Agent × Env :=
  match e.schedule with
  | a :: rest => (a, { e with schedule := rest })
  | [] => (Config.freeAgent e.draws, { e with draws := e.draws + 1 })

/-- `transmitReady()` is called and answers (43_relay.md R125). -/
def State.callTransmitReady (s : State) : Bool × State :=
  (s.env.nextReady.1, (s.setEnv s.env.nextReady.2).call (.transmitReady s.env.nextReady.1))

/-- `trySend(p)` is called and answers (42_encoder.md R112). -/
def State.callTrySend (s : State) (p : Packet) : SendAnswer × State :=
  (s.env.nextSend.1, (s.setEnv s.env.nextSend.2).call (.trySend p s.env.nextSend.1))

/-- The stimulus collaborator `c` offers now: its first one in program order (30_encoding.md R69). -/
def Env.offerOf (e : Env) (c : Collaborator) : Option Offer :=
  e.offers.find? (fun o => o.source == c)

/-- The inputs once `c`'s stimulus is taken. -/
def Env.takeOffer (e : Env) (c : Collaborator) : Env :=
  { e with offers := e.offers.eraseP (fun o => o.source == c) }

/-! ## The byte arrays -/

/-- `ACC[i] <- b`; `ACC` has the indices 0, 1 and 2 only (20_memory.md R40, log 7). -/
def writeAcc (acc : Vector Byte 3) (i : BitVec 2) (b : Byte) : Except Fault (Vector Byte 3) :=
  if h : i.toNat < 3 then .ok (acc.set i.toNat b h) else .error .accOutOfRange

/-- `MemRead(RLY_IDX, 1)` of 20_memory.md R41: the byte the relay visits. The 6-bit index is below 64. -/
def Framer.visited (f : Framer) : Byte := f.rxbuf[f.rlyIdx.toNat]'(f.rlyIdx.isLt)

/-- The delivery latch of 43_relay.md R115. -/
def Framer.latch (f : Framer) (buf : Buffer) : Framer :=
  { f with rxbuf := buf, rlyIdx := 0#6, rlyAct := true }

/-- BuildPacket (42_encoder.md R106): zero fill, then the four bytes, then `TXS <- 1`, in one step. -/
def Framer.buildPacket (f : Framer) (cin : Nibble) (st d1 d2 : Byte) : Framer :=
  { f with
    txp := ((((Vector.replicate 4 0x00#8 : Packet).set 0 (byteOfNibbles Config.cable cin)).set 1 st).set 2 d1).set 3 d2
    txs := true }

/-- The registers of ScanEnd (43_relay.md R122); its call is `State.endScan`'s. -/
def Framer.endScan (f : Framer) : Framer := { f with rlyAct := false, rlyIdx := 0#6 }

/-- ScanEnd (43_relay.md R122). -/
def State.endScan (s : State) : State := (s.setFramer s.framer.endScan).call .requestNextBuffer

/-- The tail of RELAY (43_relay.md R117): the scan ends after an early stop or after the last index, else the
index goes up by one. -/
def State.advanceScan (s : State) (stop : Bool) : State :=
  if stop || s.framer.rlyIdx.toNat == Config.relayLen - 1 then s.endScan
  else s.setFramer { s.framer with rlyIdx := s.framer.rlyIdx + 1#6 }

end Sys2Proof.Machine
end

