-- ==== Sys2Proof/Machine/Operands.lean ====
section
/-! DEFINITION. The operand forms of 10_state.md R36: the byte a PARSE class stands for, the nibble of an ENCODE row, and
the status byte the encoder writes (42_encoder.md R107 to R109). -/

namespace Sys2Proof.Machine

/-- The byte `b` of a PARSE instruction (30_encoding.md R71), none for the others. -/
def parseOperand : Instr → Option Byte
  | .parseData d => some (dataByte d)
  | .parseNoteOff c => some (voiceByte 0x8#4 c)
  | .parseNoteOn c => some (voiceByte 0x9#4 c)
  | .parsePolyKp c => some (voiceByte 0xA#4 c)
  | .parseCc c => some (voiceByte 0xB#4 c)
  | .parsePc c => some (voiceByte 0xC#4 c)
  | .parseChp c => some (voiceByte 0xD#4 c)
  | .parsePb c => some (voiceByte 0xE#4 c)
  | .parseSox => some 0xF0#8
  | .parseMtc => some 0xF1#8
  | .parseSpp => some 0xF2#8
  | .parseSs => some 0xF3#8
  | .parseUndef x => some (undefByte x)
  | .parseTune => some 0xF6#8
  | .parseEox => some 0xF7#8
  | .parseRt x => some (realTimeByte x)
  | .encodeNoteOff _ _ | .encodeNoteOn _ _ | .encodePb _ _ | .encodeNop07 _ _ _ | .encodeNopAB _ _ _
  | .encodeNopCD _ _ _ | .encodeNopF _ _ | .setFilter _ | .rxbuf _ | .txDone | .reset
  | .relayMark3 | .relayMark1 | .relayEox | .relayByte _ | .txSend => none

/-- The operands `n`, `d1`, `d2` of an ENCODE instruction (30_encoding.md R66), none for the others. -/
def encodeOperands : Instr → Option (Nibble × Byte × Byte)
  | .encodeNoteOff d1 d2 => some (0x8#4, d1, d2)
  | .encodeNoteOn d1 d2 => some (0x9#4, d1, d2)
  | .encodePb d1 d2 => some (0xE#4, d1, d2)
  | .encodeNop07 n d1 d2 => some (0#1 ++ n, d1, d2)
  | .encodeNopAB n d1 d2 => some (0x5#3 ++ n, d1, d2)
  | .encodeNopCD n d1 d2 => some (0x6#3 ++ n, d1, d2)
  | .encodeNopF d1 d2 => some (0xF#4, d1, d2)
  | .parseData _ | .parseNoteOff _ | .parseNoteOn _ | .parsePolyKp _ | .parseCc _ | .parsePc _
  | .parseChp _ | .parsePb _ | .parseSox | .parseMtc | .parseSpp | .parseSs | .parseUndef _
  | .parseTune | .parseEox | .parseRt _ | .setFilter _ | .rxbuf _ | .txDone | .reset
  | .relayMark3 | .relayMark1 | .relayEox | .relayByte _ | .txSend => none

/-- The MIDI status byte of an outbound packet: `{n', ENC_CHANNEL}` (30_encoding.md R64). -/
def encoderStatus (n : Nibble) : Byte := byteOfNibbles n Config.encChannel

end Sys2Proof.Machine
end

