-- ==== Sys2Proof/Machine/Flags.lean ====
section
/-! DEFINITION. The StatusTable (spec/40_status_table.md R72 to R75), categories and the filter (30_encoding.md R58, R59), the
derived outputs (10_state.md R23, R24, R34), the budget arithmetic and its flag (43_relay.md R116, R123). -/

namespace Sys2Proof.Machine

/-! ## Categories (30_encoding.md R58) -/

def channelVoice : Nibble := 0x1#4
def systemCommon : Nibble := 0x2#4
def realTime : Nibble := 0x4#4
def sysExCat : Nibble := 0x8#4

/-- 30_encoding.md R59: a result of category `c` passes the filter exactly when `(FLT & c) != 0`. -/
def passes (flt c : Nibble) : Bool := flt &&& c != 0x0#4

/-! ## The StatusTable -/

/-- `lengthOf` (R73); a byte below 0x80 is outside the domain (R75). -/
def lengthOf (s : Byte) : Except Fault (BitVec 2) :=
  if s.toNat < 0x80 then .error (.tableDomain s)
  else if s.toNat < 0xC0 then .ok 3#2
  else if s.toNat < 0xE0 then .ok 2#2
  else if s.toNat < 0xF0 then .ok 3#2
  else if s = 0xF1#8 then .ok 2#2
  else if s = 0xF2#8 then .ok 3#2
  else if s = 0xF3#8 then .ok 2#2
  else .ok 1#2

/-- `categoryOf` (R74); a byte below 0x80 is outside the domain (R75). -/
def categoryOf (s : Byte) : Except Fault Nibble :=
  if s.toNat < 0x80 then .error (.tableDomain s)
  else if s.toNat ≤ 0xEF then .ok channelVoice
  else if s = 0xF0#8 ∨ s = 0xF7#8 then .ok sysExCat
  else if s.toNat ≤ 0xF6 then .ok systemCommon
  else .ok realTime

/-- R75: an outside caller applies the table to `b`. The table has no side effect (R72); outside its domain the
model faults. It is no stimulus, so `step` does not make this call. -/
def callTable (b : Byte) (s : State) : StepOutcome :=
  unlessFaulted s fun s =>
    match lengthOf b with
    | .error f => raiseFault f s
    | .ok _ => .next s

/-! ## Derived outputs -/

/-- The 2-bit value of the `SXS` status output (R14). -/
def SysEx.code : SysEx → BitVec 2
  | .inactive => 0
  | .active => 1
  | .errored => 2

/-- `IS_SX` (10_state.md R23). -/
def Parser.isSx (p : Parser) : Bool := p.sxs == .active

/-- A message is in progress (10_state.md R24). -/
def Parser.inProgress (p : Parser) : Bool := p.accN != 0#2 || p.isSx

/-- `CUR_CAT` (10_state.md R24). -/
def Parser.curCat (p : Parser) : Except Fault Nibble :=
  if p.isSx then .ok sysExCat
  else if p.accN != 0#2 then categoryOf p.acc[0]
  else .ok 0x0#4

/-- `BUSY` (10_state.md R34). -/
def Framer.busy (f : Framer) : Bool := f.rlyAct

/-! ## The budget -/

/-- `sat_dec` (43_relay.md R116): mathematical integers, with the floor `BUD_MIN`. -/
def satDec (x : Budget) : Budget :=
  if x.toInt = Config.budMin then BitVec.ofInt Config.budgetBits Config.budMin
  else BitVec.ofInt Config.budgetBits (x.toInt - 1)

/-- RELAY.BYTE's budget and flag (43_relay.md R121, R123): decrement, then `BUF_UF <- 1` if the budget is negative. -/
def Framer.spend (f : Framer) : Framer :=
  { f with bud := satDec f.bud, bufUf := f.bufUf || (satDec f.bud).toInt < 0 }

/-- The budget is 0, so a marker is a marker (43_relay.md R117). -/
def Framer.budZero (f : Framer) : Bool := f.bud == 0#8

end Sys2Proof.Machine
end

