-- ==== Sys2Proof/Machine/Encode.lean ====
section
/-! DEFINITION. The outbound half of the framer (spec/42_encoder.md): ENCODE, the hand-off TXSEND, and TXDONE. -/

namespace Sys2Proof.Machine

/-- A mapped ENCODE (R105 items 1 to 3, R106): held while a scan is active or the slot is full, else the packet is
built. -/
def encodeMapped (cin : Nibble) (st d1 d2 : Byte) (s : State) : StepOutcome :=
  unlessFaulted s fun s => unlessRelayBusy s fun s =>
    if s.framer.txs then heldStep .txSlotFull s
    else .next (s.setFramer (s.framer.buildPacket cin st d1 d2))

/-- An unmapped ENCODE (R110): no register changes. It is held only while a scan is active. -/
def encodeUnmapped (s : State) : StepOutcome :=
  unlessFaulted s fun s => unlessRelayBusy s fun s => .next s

/-- ENCODE.NOTEOFF, R107. -/
def execEncodeNoteOff (d1 d2 : Byte) (s : State) : StepOutcome :=
  encodeMapped 0x8#4 (encoderStatus 0x8#4) d1 d2 s

/-- ENCODE.NOTEON, R108: velocity 0 is rewritten as a note-off. -/
def execEncodeNoteOn (d1 d2 : Byte) (s : State) : StepOutcome :=
  if d2 = 0x00#8 then encodeMapped 0x8#4 (encoderStatus 0x8#4) d1 0x00#8 s
  else encodeMapped 0x9#4 (encoderStatus 0x9#4) d1 d2 s

/-- ENCODE.PB, R109. -/
def execEncodePb (d1 d2 : Byte) (s : State) : StepOutcome :=
  encodeMapped 0xE#4 (encoderStatus 0xE#4) d1 d2 s

/-- ENCODE.NOP, R110, n in 0x0-0x7: "`n`, `d1` and `d2` are ignored". -/
def execEncodeNop07 (_n : BitVec 3) (_d1 _d2 : Byte) (s : State) : StepOutcome := encodeUnmapped s
/-- ENCODE.NOP, R110, n in 0xA-0xB. -/
def execEncodeNopAB (_n : BitVec 1) (_d1 _d2 : Byte) (s : State) : StepOutcome := encodeUnmapped s
/-- ENCODE.NOP, R110, n in 0xC-0xD. -/
def execEncodeNopCD (_n : BitVec 1) (_d1 _d2 : Byte) (s : State) : StepOutcome := encodeUnmapped s
/-- ENCODE.NOP, R110, n = 0xF. -/
def execEncodeNopF (_d1 _d2 : Byte) (s : State) : StepOutcome := encodeUnmapped s

/-- TXSEND's enabling condition (R112). -/
def Framer.sendEnabled (f : Framer) : Bool := f.txs && !f.txInfl && !f.rlyAct

/-- The registers of an accepted hand-off (R112). -/
def Framer.accepted (f : Framer) : Framer := { f with txs := false, txInfl := true }

/-- TXSEND, R112. A step that is not enabled (no packet, or the holds TxInflight and RelayBusy of R137) is not taken;
`Busy` changes no register (hold TxBusy). -/
def execTxSend (s : State) : StepOutcome :=
  unlessFaulted s fun s =>
    if s.framer.sendEnabled then
      match s.callTrySend s.framer.txp with
      | (.accepted, s') => .next (s'.setFramer s'.framer.accepted)
      | (.busy, s') => heldStep .txBusy s'
    else idleStep s

/-- TXDONE, R113: "taken at any time, including while `RLY_ACT = 1`". -/
def execTxDone (s : State) : StepOutcome :=
  unlessFaulted s fun s =>
    if s.framer.txInfl then .next (s.setFramer { s.framer with txInfl := false })
    else raiseFault .txDoneSpurious s

end Sys2Proof.Machine
end

