-- ==== Sys2Proof/Machine/Parse.lean ====
section
/-! DEFINITION. The StreamParser (spec/41_parser.md): the PARSE frame, the shared procedures, and one meaning per input-byte
class. Everything below the frame works on the Parser unit alone (10_state.md R12, 20_memory.md R50). -/

namespace Sys2Proof.Machine

/-- What a procedure of the parser gives: its result and the unit after it, or a fault in a state that breaks R25. -/
abbrev ParseStep := Except Fault (Result × Parser)

/-! ## Shared procedures, R79 to R84 -/

/-- Finish, R83: complete the message held in `ACC`. -/
def finish (p : Parser) : ParseStep :=
  match categoryOf p.acc[0] with
  | .error f => .error f
  | .ok c => .ok (.complete (p.acc.toList.take p.req.toNat) p.req c, { p with accN := 0#2, lastCat := c })

/-- StartStatus, R79: a new message at status byte `b`, outside an active SysEx. -/
def startStatus (b : Byte) (p : Parser) : ParseStep :=
  match lengthOf b with
  | .error f => .error f
  | .ok n =>
    let p' := { p with rs := b, acc := p.acc.set 0 b, accN := 1#2, req := n }
    if n = 1#2 then finish p' else .ok (.pending, p')

/-- The register writes of StartSysEx, R80. -/
def Parser.openSysEx (p : Parser) : Parser := { p with rs := 0x00#8, accN := 0#2, sxs := .active, sxf := true }

/-- StartSysEx, R80. -/
def startSysEx (p : Parser) : ParseStep := .ok (.sysExByte 0xF0#8 false false, p.openSysEx)

/-- Surface, R81: the active filter hides a completion or a SysEx byte, never an error. -/
def surface (flt : Nibble) (r : Result) : Result :=
  match r with
  | .complete _ _ c => if passes flt c then r else .pending
  | .sysExByte _ _ _ => if passes flt sysExCat then r else .pending
  | .error _ _ => r
  | .pending => .pending

/-- The append of R82: `ACC[ACC_N] <- b`, the index goes up, and the message finishes when it reaches `REQ`. -/
def appendByte (b : Byte) (p : Parser) : ParseStep :=
  match writeAcc p.acc p.accN b with
  | .error f => .error f
  | .ok acc =>
    let p' := { p with acc := acc, accN := p.accN + 1#2 }
    if p'.accN = p'.req then finish p' else .ok (.pending, p')

/-- AppendData, R82: a data byte outside an active SysEx. -/
def appendData (b : Byte) (p : Parser) : ParseStep :=
  if p.accN = 0#2 then
    if p.rs = 0x00#8 then .ok (.error .dataByteWithoutStatus b, p)
    else
      match lengthOf p.rs with
      | .error f => .error f
      | .ok n =>
        if n = 1#2 then .ok (.error .dataByteWithoutStatus b, p)
        else appendByte b { p with acc := p.acc.set 0 p.rs, accN := 1#2, req := n }
  else appendByte b p

/-- Unterminated, R84: a status byte inside an active SysEx. The byte is parsed as a fresh status, and the error
takes the place of that status's own result. -/
def unterminated (b : Byte) (p : Parser) : ParseStep :=
  let p' := { p with sxs := .errored, sxf := false }
  match (if b = 0xF0#8 then startSysEx p' else startStatus b p') with
  | .error f => .error f
  | .ok (_, p'') => .ok (.error .unterminatedSysEx b, p'')

/-! ## The branches of Dispatch, by class -/

/-- R85. -/
def realTimeBranch (b : Byte) (p : Parser) : ParseStep :=
  .ok (.complete [b] 1#2 realTime, { p with lastCat := realTime })

/-- R86: case A closes the SysEx, case B is a stray End-of-Exclusive. -/
def eoxBranch (p : Parser) : ParseStep :=
  if p.isSx then
    .ok (.sysExByte 0xF7#8 false true, { p with sxs := .inactive, sxf := false, lastCat := sysExCat })
  else .ok (.pending, p)

/-- R87. -/
def soxBranch (p : Parser) : ParseStep :=
  if p.isSx then unterminated 0xF0#8 p else startSysEx p

/-- R88 to R99: a status byte that is not 0xF0, 0xF7 or real-time. -/
def statusBranch (b : Byte) (p : Parser) : ParseStep :=
  if p.isSx then unterminated b p else startStatus b p

/-- R100: case A is SysEx data, cases B to D are AppendData's. -/
def dataBranch (b : Byte) (p : Parser) : ParseStep :=
  if p.isSx then .ok (.sysExByte b p.sxf false, { p with sxf := false }) else appendData b p

/-- Dispatch, R78, in the rule's own order of tests. The meanings below go by the class the decoder found; that they
agree with this is a statement of the package. -/
def dispatchByte (b : Byte) (p : Parser) : ParseStep :=
  if 0xF8 ≤ b.toNat then realTimeBranch b p
  else if p.isSx then
    if b = 0xF7#8 then eoxBranch p
    else if 0x80 ≤ b.toNat then unterminated b p
    else dataBranch b p
  else if b = 0xF0#8 then startSysEx p
  else if b = 0xF7#8 then .ok (.pending, p)
  else if 0x80 ≤ b.toNat then startStatus b p
  else appendData b p

/-! ## The frame, R76 and R77 -/

/-- The filter commit of R77: only at a message boundary. -/
def Parser.commitFilter (p : Parser) : Parser :=
  if p.inProgress then p else { p with flt := p.fltPend }

/-- PARSE on the Parser unit (R77): commit, dispatch, `WAS_SX`, surface. -/
def parseUnit (branch : Parser → ParseStep) (p : Parser) : ParseStep :=
  match branch p.commitFilter with
  | .error f => .error f
  | .ok (r, p') => .ok (surface p'.flt r, { p' with wasSx := p.isSx })

/-- PARSE on the machine (R76): held while a scan is active, else one result is returned. -/
def parseFrame (branch : Parser → ParseStep) (s : State) : StepOutcome :=
  unlessFaulted s fun s => unlessRelayBusy s fun s =>
    match parseUnit branch s.parser with
    | .error f => raiseFault f s
    | .ok (r, p) => .next ((s.setParser p).returnResult r)

/-! ## The meanings -/

/-- PARSE.DATA, R100. -/
def execParseData (d : BitVec 7) (s : State) : StepOutcome := parseFrame (dataBranch (dataByte d)) s
/-- PARSE.NOTEOFF, R88. -/
def execParseNoteOff (c : BitVec 4) (s : State) : StepOutcome := parseFrame (statusBranch (voiceByte 0x8#4 c)) s
/-- PARSE.NOTEON, R89. -/
def execParseNoteOn (c : BitVec 4) (s : State) : StepOutcome := parseFrame (statusBranch (voiceByte 0x9#4 c)) s
/-- PARSE.POLYKP, R90. -/
def execParsePolyKp (c : BitVec 4) (s : State) : StepOutcome := parseFrame (statusBranch (voiceByte 0xA#4 c)) s
/-- PARSE.CC, R91. -/
def execParseCc (c : BitVec 4) (s : State) : StepOutcome := parseFrame (statusBranch (voiceByte 0xB#4 c)) s
/-- PARSE.PC, R92. -/
def execParsePc (c : BitVec 4) (s : State) : StepOutcome := parseFrame (statusBranch (voiceByte 0xC#4 c)) s
/-- PARSE.CHP, R93. -/
def execParseChp (c : BitVec 4) (s : State) : StepOutcome := parseFrame (statusBranch (voiceByte 0xD#4 c)) s
/-- PARSE.PB, R94. -/
def execParsePb (c : BitVec 4) (s : State) : StepOutcome := parseFrame (statusBranch (voiceByte 0xE#4 c)) s
/-- PARSE.SOX, R87. -/
def execParseSox (s : State) : StepOutcome := parseFrame soxBranch s
/-- PARSE.MTC, R95. -/
def execParseMtc (s : State) : StepOutcome := parseFrame (statusBranch 0xF1#8) s
/-- PARSE.SPP, R96. -/
def execParseSpp (s : State) : StepOutcome := parseFrame (statusBranch 0xF2#8) s
/-- PARSE.SS, R97. -/
def execParseSs (s : State) : StepOutcome := parseFrame (statusBranch 0xF3#8) s
/-- PARSE.UNDEF, R98. -/
def execParseUndef (x : BitVec 1) (s : State) : StepOutcome := parseFrame (statusBranch (undefByte x)) s
/-- PARSE.TUNE, R99. -/
def execParseTune (s : State) : StepOutcome := parseFrame (statusBranch 0xF6#8) s
/-- PARSE.EOX, R86. -/
def execParseEox (s : State) : StepOutcome := parseFrame eoxBranch s
/-- PARSE.RT, R85. -/
def execParseRt (x : BitVec 3) (s : State) : StepOutcome := parseFrame (realTimeBranch (realTimeByte x)) s

end Sys2Proof.Machine
end

