-- ==== Sys2Proof/Machine/Relay.lean ====
section
/-! DEFINITION. The inbound half of the framer (spec/43_relay.md): the delivery RXBUF and the four classes of one RELAY step.
The order of R117's tests is the decoder's (`decodeRelay`); each class below also checks the condition of its table
row, so that it takes no step where it is not the class of the visited byte. -/

namespace Sys2Proof.Machine

/-- RXBUF, R115: the fault is tested first (60_exceptions.md R138). -/
def execRxbuf (buf : Buffer) (s : State) : StepOutcome :=
  unlessFaulted s fun s =>
    if s.framer.rlyAct then raiseFault .rxOverrun s
    else .next (s.setFramer (s.framer.latch buf))

/-- A RELAY step is enabled (R117) and `b` is the byte it visits. -/
def Framer.visits (f : Framer) (b : Byte) : Bool := f.rlyAct && f.visited == b

/-- A marker step (R118, R119): the budget goes up by `n`, nothing is emitted, the scan advances. -/
def relayMarker (marker : Byte) (n : Budget) (s : State) : StepOutcome :=
  unlessFaulted s fun s =>
    if s.framer.visits marker && s.framer.budZero then
      .next ((s.setFramer { s.framer with bud := s.framer.bud + n }).advanceScan false)
    else idleStep s

/-- An emitting step (R117, R125): `transmitReady` is asked; on `false` the step does not take place and no register
changes; on `true` the byte is transmitted, `upd` writes the budget, and the scan advances. -/
def relayEmit (b : Byte) (upd : Framer → Framer) (stop : Bool) (s : State) : StepOutcome :=
  match s.callTransmitReady with
  | (true, s') => .next (((s'.call (.transmitByte b)).setFramer (upd s'.framer)).advanceScan stop)
  | (false, s') => heldStep .serialNotReady s'

/-- RELAY.MARK3, R118. -/
def execRelayMark3 (s : State) : StepOutcome := relayMarker Config.mark3 3#8 s

/-- RELAY.MARK1, R119. -/
def execRelayMark1 (s : State) : StepOutcome := relayMarker Config.mark1 1#8 s

/-- RELAY.EOX, R120: the budget becomes 0, no underflow flag, and the scan stops. -/
def execRelayEox (s : State) : StepOutcome :=
  unlessFaulted s fun s =>
    if s.framer.visits Config.eox then relayEmit Config.eox (fun f => { f with bud := 0#8 }) true s
    else idleStep s

/-- RELAY.BYTE, R121: any byte but 0xF7 and, while the budget is 0, the markers. -/
def execRelayByte (b : Byte) (s : State) : StepOutcome :=
  unlessFaulted s fun s =>
    if s.framer.visits b && b != Config.eox &&
        !(s.framer.budZero && (b == Config.mark3 || b == Config.mark1)) then
      relayEmit b Framer.spend false s
    else idleStep s

end Sys2Proof.Machine
end

