-- ==== Sys2Proof/Machine/Control.lean ====
section
/-! DEFINITION. SETFILTER and the status reads (spec/44_control.md), RESET (70_reset_and_hazards.md R149), the table of holds
(60_exceptions.md R137), and the result word (30_encoding.md R62). -/

namespace Sys2Proof.Machine

/-- SETFILTER, R127. -/
def execSetFilter (mask : Nibble) (s : State) : StepOutcome :=
  unlessFaulted s fun s => unlessRelayBusy s fun s =>
    .next (s.setParser { s.parser with fltPend := mask })

/-- RESET on the Parser unit (R149): `ACC` and `REQ` "are not written". -/
def Parser.resetRegs (p : Parser) : Parser :=
  { p with
    rs := 0x00#8, sxs := .inactive, sxf := false, accN := 0#2, fltPend := Config.fltReset,
    flt := Config.fltReset, lastCat := 0x0#4, wasSx := false }

/-- RESET on the Framer unit (R149): `RXBUF` is not written. -/
def Framer.resetRegs (f : Framer) : Framer :=
  { f with
    txs := false, txp := Vector.replicate 4 0x00#8, txInfl := false, bud := 0#8, bufUf := false,
    rlyAct := false, rlyIdx := 0#6 }

/-- RESET, R149: one step, no collaborator call (R151); it is not taken in a faulted state. -/
def execReset (s : State) : StepOutcome :=
  unlessFaulted s fun s =>
    .next ((s.setParser s.parser.resetRegs).setFramer s.framer.resetRegs)

/-- The status outputs (10_state.md R38). A read is not a step (44_control.md R128). -/
def State.status (s : State) : StatusOutputs where
  isSx := s.parser.isSx
  wasSx := s.parser.wasSx
  curCat := s.parser.curCat
  lastCat := s.parser.lastCat
  sxs := s.parser.sxs.code
  rs := s.parser.rs
  flt := s.parser.flt
  fltPend := s.parser.fltPend
  bud := s.framer.bud.toInt
  bufUf := s.framer.bufUf
  txs := s.framer.txs
  txInfl := s.framer.txInfl
  busy := s.framer.busy

/-! ## Holds -/

/-- The hold RelayBusy, if a scan is active (R137). -/
def Framer.relayHold (f : Framer) : Option Hold := if f.rlyAct then some .relayBusy else none

/-- The holds of a mapped ENCODE, in the order of 42_encoder.md R105. -/
def Framer.encodeHold (f : Framer) : Option Hold :=
  if f.rlyAct then some .relayBusy else if f.txs then some .txSlotFull else none

/-- The rows of R137's table that a state decides (a collaborator's answer decides TxBusy and SerialNotReady). -/
def heldBy (i : Instr) (f : Framer) : Option Hold :=
  match i with
  | .parseData _ | .parseNoteOff _ | .parseNoteOn _ | .parsePolyKp _ | .parseCc _ | .parsePc _
  | .parseChp _ | .parsePb _ | .parseSox | .parseMtc | .parseSpp | .parseSs | .parseUndef _
  | .parseTune | .parseEox | .parseRt _ => f.relayHold
  | .encodeNoteOff _ _ | .encodeNoteOn _ _ | .encodePb _ _ => f.encodeHold
  | .encodeNop07 _ _ _ | .encodeNopAB _ _ _ | .encodeNopCD _ _ _ | .encodeNopF _ _ => f.relayHold
  | .setFilter _ => f.relayHold
  | .rxbuf _ | .txDone | .reset => none
  | .relayMark3 | .relayMark1 | .relayEox | .relayByte _ => none
  | .txSend => if f.rlyAct then some .relayBusy else if f.txs && f.txInfl then some .txInflight else none

/-! ## The result word (30_encoding.md R62, R63) -/

/-- The ERR field (R63). -/
def ErrorKind.code : ErrorKind → BitVec 2
  | .unterminatedSysEx => 1
  | .dataByteWithoutStatus => 2

/-- The flags FIRST (bit 2) and LAST (bit 3). -/
def sysExFlags (first last : Bool) : BitVec 2 := BitVec.ofBool last ++ BitVec.ofBool first

/-- The 32-bit packing of a result, fields from bit 31 down: `msg[2]`, `msg[1]`, `msg[0]` or `b`, CAT, bits 3:2, KIND. -/
def resultWord : Result → Word
  | .pending => 0#32
  | .complete msg len cat =>
    (msg[2]?.getD 0x00#8) ++ (msg[1]?.getD 0x00#8) ++ (msg[0]?.getD 0x00#8) ++ cat ++ len ++ 1#2
  | .sysExByte b first last => 0#16 ++ b ++ sysExCat ++ sysExFlags first last ++ 2#2
  | .error k b => 0#16 ++ b ++ 0#4 ++ k.code ++ 3#2

/-- The results R61 allows: a message has `len` bytes, `len` in 1..3, and a one-hot category. -/
def Result.wf : Result → Bool
  | .complete msg len cat =>
    msg.length == len.toNat && len != 0#2 &&
      (cat == channelVoice || cat == systemCommon || cat == realTime || cat == sysExCat)
  | .pending | .sysExByte _ _ _ | .error _ _ => true

/-- The result a word packs, none for a word that packs none. -/
def resultOfWord (w : Word) : Option Result :=
  let kind := w.extractLsb' 0 2
  let f := w.extractLsb' 2 2
  let cat := w.extractLsb' 4 4
  let b0 := w.extractLsb' 8 8
  let b1 := w.extractLsb' 16 8
  let b2 := w.extractLsb' 24 8
  let r : Result :=
    if kind = 0#2 then .pending
    else if kind = 1#2 then .complete ([b0, b1, b2].take f.toNat) f cat
    else if kind = 2#2 then .sysExByte b0 (f.getLsbD 0) (f.getLsbD 1)
    else if f = 1#2 then .error .unterminatedSysEx b0
    else .error .dataByteWithoutStatus b0
  if r.wf && resultWord r == w then some r else none

end Sys2Proof.Machine
end

