-- ==== Sys2Proof/Machine/Dispatch.lean ====
section
/-! DEFINITION. The dispatch of an instruction to its meaning. -/

namespace Sys2Proof.Machine

def exec (i : Instr) (s : State) : Host.Outcome State Fault Refusal :=
  match i with
  | .parseData d => Sys2Proof.Machine.execParseData d s
  | .parseNoteOff c => Sys2Proof.Machine.execParseNoteOff c s
  | .parseNoteOn c => Sys2Proof.Machine.execParseNoteOn c s
  | .parsePolyKp c => Sys2Proof.Machine.execParsePolyKp c s
  | .parseCc c => Sys2Proof.Machine.execParseCc c s
  | .parsePc c => Sys2Proof.Machine.execParsePc c s
  | .parseChp c => Sys2Proof.Machine.execParseChp c s
  | .parsePb c => Sys2Proof.Machine.execParsePb c s
  | .parseSox => Sys2Proof.Machine.execParseSox s
  | .parseMtc => Sys2Proof.Machine.execParseMtc s
  | .parseSpp => Sys2Proof.Machine.execParseSpp s
  | .parseSs => Sys2Proof.Machine.execParseSs s
  | .parseUndef x => Sys2Proof.Machine.execParseUndef x s
  | .parseTune => Sys2Proof.Machine.execParseTune s
  | .parseEox => Sys2Proof.Machine.execParseEox s
  | .parseRt x => Sys2Proof.Machine.execParseRt x s
  | .encodeNoteOff d1 d2 => Sys2Proof.Machine.execEncodeNoteOff d1 d2 s
  | .encodeNoteOn d1 d2 => Sys2Proof.Machine.execEncodeNoteOn d1 d2 s
  | .encodePb d1 d2 => Sys2Proof.Machine.execEncodePb d1 d2 s
  | .encodeNop07 n d1 d2 => Sys2Proof.Machine.execEncodeNop07 n d1 d2 s
  | .encodeNopAB n d1 d2 => Sys2Proof.Machine.execEncodeNopAB n d1 d2 s
  | .encodeNopCD n d1 d2 => Sys2Proof.Machine.execEncodeNopCD n d1 d2 s
  | .encodeNopF d1 d2 => Sys2Proof.Machine.execEncodeNopF d1 d2 s
  | .setFilter mask => Sys2Proof.Machine.execSetFilter mask s
  | .rxbuf buf => Sys2Proof.Machine.execRxbuf buf s
  | .txDone => Sys2Proof.Machine.execTxDone s
  | .reset => Sys2Proof.Machine.execReset s
  | .relayMark3 => Sys2Proof.Machine.execRelayMark3 s
  | .relayMark1 => Sys2Proof.Machine.execRelayMark1 s
  | .relayEox => Sys2Proof.Machine.execRelayEox s
  | .relayByte b => Sys2Proof.Machine.execRelayByte b s
  | .txSend => Sys2Proof.Machine.execTxSend s

end Sys2Proof.Machine
end

