-- ==== Sys2Proof/Machine/Fetch.lean ====
section
/-! DEFINITION. How the core's next step is chosen and fetched (spec/60_exceptions.md R137 to R139, 30_encoding.md R67, R69), and
where an instruction is placed so that the next step runs it (log 12). -/

namespace Sys2Proof.Machine

/-- Collaborator `c` moves: the stimulus it offers is decoded and, unless a hold keeps it on offer, taken and run. A
word that spells no stimulus is refused by name (30_encoding.md R67). -/
def stepOffer (c : Collaborator) (s : State) : StepOutcome :=
  match s.env.offerOf c with
  | none => idleStep s
  | some o =>
    match decodeStimulus o.word o.buf with
    | .error (.illegalStimulus w) => .refused (.illegalStimulus w)
    | .ok i =>
      match heldBy i s.framer with
      | some h => heldStep h s
      | none => exec i (s.setEnv (s.env.takeOffer c))

/-- A RELAY step (43_relay.md R117): the byte at `RLY_IDX` is fetched, classed with the budget, and its class runs. -/
def stepRelay (s : State) : StepOutcome :=
  if s.framer.rlyAct then exec (decodeRelay s.framer.budZero s.framer.visited) s else idleStep s

/-- One agent moves. -/
def stepAgent (a : Agent) (s : State) : StepOutcome :=
  match a with
  | .offer c => stepOffer c s
  | .txSend => exec .txSend s
  | .relay => stepRelay s

/-- One step of the machine: none when faulted (R136), else the scheduled agent moves (R139). -/
def stepMachine (s : State) : StepOutcome :=
  unlessFaulted s fun s => stepAgent s.env.nextAgent.1 (s.setEnv s.env.nextAgent.2)

/-- Which collaborator offers a word, by its OP (30_encoding.md R69, 60_exceptions.md R148). A word of a reserved OP
is no one's; it is put to the TaskLoop, whose next move then refuses it. -/
def ownerOf (w : Word) : Collaborator :=
  let op := w.extractLsb' 28 4
  if op = 0x3#4 then .usbReceive
  else if op = 0x4#4 then .usbTransmit
  else if op = 0x5#4 then .resetSource
  else .taskLoop

/-- Put a stimulus on offer, ahead of the others, with its collaborator to move. -/
def placeStimulus (w : Word) (buf : Buffer) (s : State) : State :=
  s.setEnv { s.env with
    offers := { source := ownerOf w, word := w, buf := buf } :: s.env.offers
    schedule := .offer (ownerOf w) :: s.env.schedule }

/-- Put byte `b` where the relay visits next, with a scan active and RELAY to move. A marker needs a budget of 0;
an emitted byte needs `transmitReady` to answer true. -/
def placeRelay (b : Byte) (s : State) : State :=
  let marker := b == Config.mark3 || b == Config.mark1
  { s with
    framer := { s.framer with
      rxbuf := s.framer.rxbuf.set s.framer.rlyIdx.toNat b s.framer.rlyIdx.isLt
      rlyAct := true
      bud := if marker then 0#8 else s.framer.bud }
    env := { s.env with
      schedule := .relay :: s.env.schedule
      readyAnswers := if marker then s.env.readyAnswers else true :: s.env.readyAnswers } }

/-- Enable TXSEND (42_encoder.md R112) on the packet the slot holds, and let it move, accepted. -/
def placeHandOff (s : State) : State :=
  { s with
    framer := { s.framer with txs := true, txInfl := false, rlyAct := false }
    env := { s.env with
      schedule := .txSend :: s.env.schedule
      sendAnswers := .accepted :: s.env.sendAnswers } }

/-- Place a fetched instruction where the next step fetches. -/
def placeFetched (f : Fetched) (s : State) : State :=
  match f with
  | .stimulus w buf => placeStimulus w buf s
  | .relay b => placeRelay b s
  | .handOff => placeHandOff s

end Sys2Proof.Machine
end

