-- ==== Sys2Proof/Machine/Step.lean ====
section
/-! DEFINITION. One step of the machine, and the place of its next instruction. The work is in Machine/Fetch.lean. -/

namespace Sys2Proof.Machine

def step (s : State) : Host.Outcome State Fault Refusal := stepMachine s

/-- The state whose next step runs the instruction of `nbits` table bits `w` (log 12). -/
def State.withFetchWord (s : State) (nbits w : Nat) : State := placeFetched (fetchedOfTable nbits w) s

end Sys2Proof.Machine
end

