-- ==== Sys2Proof/Machine/Program.lean ====
section
/-! DEFINITION. Stimulus programs: the line syntax and the pseudo-instructions of spec/30_encoding.md R69 and R70, and the eager
schedule, "a convention for tests" (60_exceptions.md R139). The step does not depend on this file. -/

namespace Sys2Proof.Machine

/-- A line of R69. -/
inductive Line where
  /-- `P bb` -/
  | p (b : Byte)
  /-- `E n, d1, d2` -/
  | e (n : Nibble) (d1 d2 : Byte)
  /-- `F m` -/
  | f (m : Nibble)
  /-- `RX [b0 b1 … bk] fill ff` -/
  | rx (bytes : List Byte) (fill : Byte)
  /-- `TXDONE` -/
  | txDone
  /-- `RESET` -/
  | reset
  deriving DecidableEq, Repr

/-- A pseudo-instruction of R70. -/
inductive PseudoLine where
  | ps (bs : List Byte)
  | non (p v : Byte)
  | noff (p v : Byte)
  | pbend (l m : Byte)
  | fall
  | fnone
  deriving DecidableEq, Repr

/-- R70: the expansions. -/
def expandPseudo : PseudoLine → List Line
  | .ps bs => bs.map .p
  | .non p v => [.e 0x9#4 p v]
  | .noff p v => [.e 0x8#4 p v]
  | .pbend l m => [.e 0xE#4 l m]
  | .fall => [.f 0xF#4]
  | .fnone => [.f 0x0#4]

/-- R69: "the buffer `b0..bk`, then `ff` up to index 63". DESIGN CHOICE (log 18): R69 gives a line of more than 64 bytes no
meaning; the bytes past index 63 are dropped. -/
def filledBuffer (bytes : List Byte) (fill : Byte) : Buffer :=
  ⟨((bytes ++ List.replicate Config.relayLen fill).take Config.relayLen).toArray, by
    simp [Config.relayLen]⟩

/-- The stimulus word of a line (R69). -/
def lineWord : Line → Word
  | .p b => parseWord b
  | .e n d1 d2 => encodeWord n d1 d2
  | .f m => setFilterWord m
  | .rx _ _ => 0x30000000#32
  | .txDone => 0x40000000#32
  | .reset => 0x50000000#32

/-- The out-of-band buffer of a line. -/
def lineBuffer : Line → Buffer
  | .rx bytes fill => filledBuffer bytes fill
  | .p _ | .e _ _ _ | .f _ | .txDone | .reset => zeroBuffer

/-- The offer a line makes: "Each line comes from one collaborator". -/
def lineOffer (l : Line) : Offer where
  source := ownerOf (lineWord l)
  word := lineWord l
  buf := lineBuffer l

/-- A hexadecimal digit, in capitals as R69 writes them. -/
def hexDigit (n : Nat) : String := String.singleton ("0123456789ABCDEF".toList.getD n '0')

/-- A byte as two hexadecimal digits. -/
def hexByte (b : Byte) : String := hexDigit (b.toNat / 16) ++ hexDigit (b.toNat % 16)

/-- The text of a line (R69). -/
def lineText : Line → String
  | .p b => "P " ++ hexByte b
  | .e n d1 d2 => "E " ++ hexDigit n.toNat ++ ", " ++ hexByte d1 ++ ", " ++ hexByte d2
  | .f m => "F " ++ hexDigit m.toNat
  | .rx bytes fill => "RX [" ++ String.intercalate " " (bytes.map hexByte) ++ "] fill " ++ hexByte fill
  | .txDone => "TXDONE"
  | .reset => "RESET"

/-- A program: its `assume` header and its lines (R69). -/
structure StimulusProgram where
  transmitReady : List Bool
  trySend : List SendAnswer
  lines : List Line
  deriving DecidableEq, Repr

/-- Offer a program to the machine. -/
def loadProgram (pr : StimulusProgram) (s : State) : State :=
  s.setEnv { s.env with
    offers := s.env.offers ++ pr.lines.map lineOffer
    readyAnswers := s.env.readyAnswers ++ pr.transmitReady
    sendAnswers := s.env.sendAnswers ++ pr.trySend }

/-- The offer can be tried now: it is its collaborator's first, and no hold keeps it. -/
def Offer.takeable (s : State) (o : Offer) : Bool :=
  s.env.offerOf o.source == some o &&
    match decodeStimulus o.word o.buf with
    | .error _ => true
    | .ok i => (heldBy i s.framer).isNone

/-- The visited byte is a marker, so that the RELAY step asks no `transmitReady` (43_relay.md R117, R125). -/
def Framer.atMarker (f : Framer) : Bool := f.budZero && (f.visited == Config.mark3 || f.visited == Config.mark1)

/-- A RELAY step goes on when tried now: a marker always, an emitted byte unless the next listed answer is `false`. -/
def State.relayGoesOn (s : State) : Bool :=
  s.framer.rlyAct && (s.framer.atMarker || s.env.readyAnswers.head? != some false)

/-- The eager schedule of R69: an enabled internal step first, then the first line that is not held. An emitting RELAY
step whose next listed answer is `false` counts as held (log 18). -/
def eagerAgent (s : State) : Agent :=
  if s.relayGoesOn then .relay
  else if s.framer.sendEnabled then .txSend
  else
    match s.env.offers.find? (Offer.takeable s) with
    | some o => .offer o.source
    | none => if s.framer.rlyAct then .relay else .txSend

/-- A step under the eager schedule. -/
def stepEager (s : State) : StepOutcome :=
  step (s.setEnv { s.env with schedule := eagerAgent s :: s.env.schedule })

end Sys2Proof.Machine
end

