-- ==== Sys2Proof/Safety.lean ====
section
/-! DEFINITION. The terms claims use: the invariants of spec/10_state.md R25 and R35, the packets of 42_encoder.md R111, the launch premise
and the end of a run (70_reset_and_hazards.md R153, R164), the legal stimulus words (30_encoding.md R66), a byte
stream through the parser, and a relay scan read as a function of the buffer. -/

namespace Sys2Proof.Machine

/-! ## Invariants -/

/-- The legal values of `RS` (10_state.md R13). -/
abbrev Parser.RsLegal (p : Parser) : Prop :=
  p.rs = 0x00#8 ∨ (0x80 ≤ p.rs.toNat ∧ p.rs.toNat ≤ 0xEF) ∨ (0xF1 ≤ p.rs.toNat ∧ p.rs.toNat ≤ 0xF6)

/-- 10_state.md R25, items 1 to 3 (item 4 holds by the type of `SXS`), with the legal values of R13. -/
abbrev Parser.Inv (p : Parser) : Prop :=
  p.RsLegal ∧
  (p.accN ≠ 0#2 → p.rs ≠ 0x00#8 ∧ p.acc[0] = p.rs ∧ lengthOf p.rs = .ok p.req ∧ p.accN.toNat < p.req.toNat) ∧
  (p.sxs = .active → p.accN = 0#2 ∧ p.rs = 0x00#8) ∧
  (p.sxf = true → p.sxs = .active)

/-- The packets the encoder builds (10_state.md R35 items 2 and 3, 42_encoder.md R111). -/
abbrev PacketOk (p : Packet) : Prop :=
  (p[0] = 0x08#8 ∨ p[0] = 0x09#8 ∨ p[0] = 0x0E#8) ∧ (p[0] = 0x09#8 → p[3] ≠ 0x00#8)

/-- 10_state.md R35, items 1 to 4 and 6, and "the scan end" leaves the index at 0 (R32). -/
abbrev Framer.Inv (f : Framer) : Prop :=
  (Config.budMin ≤ f.bud.toInt ∧ f.bud.toInt ≤ 3) ∧
  (f.txs = true → PacketOk f.txp) ∧
  (f.bud.toInt < 0 → f.bufUf = true) ∧
  (0 ≤ f.bud.toInt → (f.rlyIdx.toNat + f.bud.toInt) % 2 = 0) ∧
  (f.rlyAct = false → f.rlyIdx = 0#6)

/-- The reachable-state premise of both units. -/
abbrev State.Inv (s : State) : Prop := s.parser.Inv ∧ s.framer.Inv

/-- Every packet ever offered to USB, and the one in the slot, is one the encoder builds (42_encoder.md R111). -/
abbrev State.PacketsOk (s : State) : Prop :=
  (∀ p a, Call.trySend p a ∈ s.log.calls → PacketOk p) ∧ (s.framer.txs = true → PacketOk s.framer.txp)

/-! ## Launch and end of a run -/

/-- `CleanEntry` (70_reset_and_hazards.md R153): not faulted, and the registers as RESET leaves them; `ACC`, `REQ` and
`RXBUF` are free. No stimulus is then held and no scan is active. -/
abbrev State.CleanEntry (s : State) : Prop :=
  s.faulted = none ∧ s.parser.resetRegs = s.parser ∧ s.framer.resetRegs = s.framer

/-- Quiescent (70_reset_and_hazards.md R164). -/
abbrev State.Quiescent (s : State) : Prop :=
  s.env.offers = [] ∧ s.framer.rlyAct = false ∧ (s.framer.txs = false ∨ s.framer.txInfl = true)

/-- A safe run records no fault and meets no refusal (60_exceptions.md R136: "no fault recorded and no refusal"). -/
def SafeAfter (n : Nat) (s : State) : Prop :=
  ∃ t, Host.Core.run { State := State, Fault := Fault, Refusal := Refusal, step := step, reset := State.reset } n s
      = .next t ∧ t.faulted = none

/-! ## What the collaborators have seen (70_reset_and_hazards.md R164) -/

/-- The bytes passed to `transmitByte`. -/
def serialBytes (cs : List Call) : List Byte :=
  cs.filterMap fun c => match c with
    | .transmitByte b => some b
    | .trySend _ _ | .transmitReady _ | .requestNextBuffer => none

/-- The packets `trySend` accepted. -/
def acceptedPackets (cs : List Call) : List Packet :=
  cs.filterMap fun c => match c with
    | .trySend p .accepted => some p
    | .trySend _ .busy | .transmitReady _ | .transmitByte _ | .requestNextBuffer => none

/-- How often `requestNextBuffer` was called. -/
def rearmCount (cs : List Call) : Nat := cs.countP (· == .requestNextBuffer)

/-! ## Answers and turns: a listed one or, when none is listed, any value of the free draw -/

/-- `transmitReady` answers `a`, and the inputs are then `e'` (43_relay.md R125). -/
abbrev Env.ReadyIs (e : Env) (a : Bool) (e' : Env) : Prop :=
  (∃ rest, e.readyAnswers = a :: rest ∧ e' = { e with readyAnswers := rest }) ∨
  (e.readyAnswers = [] ∧ Config.freeReady e.draws = a ∧ e' = { e with draws := e.draws + 1 })

/-- `trySend` answers `a`, and the inputs are then `e'` (42_encoder.md R112). -/
abbrev Env.SendIs (e : Env) (a : SendAnswer) (e' : Env) : Prop :=
  (∃ rest, e.sendAnswers = a :: rest ∧ e' = { e with sendAnswers := rest }) ∨
  (e.sendAnswers = [] ∧ Config.freeSend e.draws = a ∧ e' = { e with draws := e.draws + 1 })

/-- It is agent `a`'s turn, and the inputs are then `e'` (60_exceptions.md R139). -/
abbrev Env.TurnIs (e : Env) (a : Agent) (e' : Env) : Prop :=
  (∃ rest, e.schedule = a :: rest ∧ e' = { e with schedule := rest }) ∨
  (e.schedule = [] ∧ Config.freeAgent e.draws = a ∧ e' = { e with draws := e.draws + 1 })

/-! ## Stimulus words -/

/-- A word that spells no stimulus (30_encoding.md R66, R67): a reserved OP, or a reserved bit of its OP set. -/
abbrev IllegalWord (w : Word) : Prop :=
  (6 ≤ (w.extractLsb' 28 4).toNat) ∨
  (w.extractLsb' 28 4 = 0x0#4 ∧ w.extractLsb' 8 20 ≠ 0#20) ∨
  (w.extractLsb' 28 4 = 0x1#4 ∧ w.extractLsb' 20 8 ≠ 0#8) ∨
  (w.extractLsb' 28 4 = 0x2#4 ∧ w.extractLsb' 4 24 ≠ 0#24) ∨
  ((w.extractLsb' 28 4 = 0x3#4 ∨ w.extractLsb' 28 4 = 0x4#4 ∨ w.extractLsb' 28 4 = 0x5#4) ∧
    w.extractLsb' 0 28 ≠ 0#28)

/-! ## The filter of a PARSE -/

/-- `FLT` once the commit of 41_parser.md R77 is done. -/
def Parser.committedFlt (p : Parser) : Nibble :=
  if p.accN = 0#2 ∧ p.sxs ≠ .active then p.fltPend else p.flt

/-! ## A byte stream through the parser -/

/-- PARSE of one byte on the Parser unit (41_parser.md R77 and R78). -/
def feedByte (b : Byte) (p : Parser) : ParseStep := parseUnit (dispatchByte b) p

/-- PARSE of a stream: the results in order, and the unit after it. -/
def feedBytes : List Byte → Parser → Except Fault (List Result × Parser)
  | [], p => .ok ([], p)
  | b :: bs, p =>
    match feedByte b p with
    | .error f => .error f
    | .ok (r, p') =>
      match feedBytes bs p' with
      | .error f => .error f
      | .ok (rs, p'') => .ok (r :: rs, p'')

/-- A real-time byte. -/
def isRealTime (b : Byte) : Bool := decide (0xF8 ≤ b.toNat)

/-- The stream without its real-time bytes. -/
def withoutRealTime (bs : List Byte) : List Byte := bs.filter (fun b => !isRealTime b)

/-- The results of the bytes that are not real-time. -/
def resultsWithoutRealTime (bs : List Byte) (rs : List Result) : List Result :=
  ((bs.zip rs).filter (fun x => !isRealTime x.1)).map Prod.snd

/-! ## A relay scan as a function of the buffer (43_relay.md R117 to R122) -/

/-- What a scan does: the bytes it emits, the budget and the flag it leaves, and how many bytes it visits. -/
structure ScanResult where
  emitted : List Byte
  bud : Budget
  bufUf : Bool
  visited : Nat
  deriving DecidableEq, Repr

/-- One byte more was visited, and `bs` was emitted before the rest. -/
def ScanResult.after (r : ScanResult) (bs : List Byte) : ScanResult :=
  { r with emitted := bs ++ r.emitted, visited := r.visited + 1 }

/-- The scan of the bytes still to visit. -/
def scanBytes : List Byte → Budget → Bool → ScanResult
  | [], bud, uf => { emitted := [], bud := bud, bufUf := uf, visited := 0 }
  | b :: bs, bud, uf =>
    if bud = 0#8 ∧ b = 0x04#8 then (scanBytes bs 3#8 uf).after []
    else if bud = 0#8 ∧ b = 0x05#8 then (scanBytes bs 1#8 uf).after []
    else if b = 0xF7#8 then { emitted := [b], bud := 0#8, bufUf := uf, visited := 1 }
    else (scanBytes bs (satDec bud) (uf || decide ((satDec bud).toInt < 0))).after [b]

end Sys2Proof.Machine
end

