-- ==== Sys2Proof/Certificates/Slice0/Obligations.lean ====
section
/-! DEFINITION. The statements for the provers. Each docstring names the rules of spec/ it rests on. "Not faulted" is
`s.faulted = none` (60_exceptions.md R136: a faulted state has no step), "no scan" is `s.framer.rlyAct = false`
(the hold RelayBusy of R137). An equation `exec i s = .next t` gives the whole next state, so its frame too. -/

open Sys2Proof Sys2Proof.Machine

/-! ## Encoding -/

/-- 30_encoding.md R66, R67, R71: words written out in 95_test_vectors.md ("Stimulus decoding") and one per further
family, from the bits of R66. -/
def Obligations.WrittenOutWordsDecode : Prop :=
  ∀ buf : Buffer,
    decodeStimulus 0x00000090#32 buf = .ok (.parseNoteOn 0x0#4) ∧
    decodeStimulus 0x000000F4#32 buf = .ok (.parseUndef 0#1) ∧
    decodeStimulus 0x0000007F#32 buf = .ok (.parseData 0x7F#7) ∧
    decodeStimulus 0x000000FE#32 buf = .ok (.parseRt 6#3) ∧
    decodeStimulus 0x000000C5#32 buf = .ok (.parsePc 0x5#4) ∧
    decodeStimulus 0x10093C7F#32 buf = .ok (.encodeNoteOn 0x3C#8 0x7F#8) ∧
    decodeStimulus 0x100B0764#32 buf = .ok (.encodeNopAB 1#1 0x07#8 0x64#8) ∧
    decodeStimulus 0x2000000E#32 buf = .ok (.setFilter 0xE#4) ∧
    decodeStimulus 0x30000000#32 buf = .ok (.rxbuf buf) ∧
    decodeStimulus 0x40000000#32 buf = .ok .txDone ∧
    decodeStimulus 0x50000000#32 buf = .ok .reset ∧
    decodeStimulus 0x00000190#32 buf = .error (.illegalStimulus 0x00000190#32) ∧
    decodeStimulus 0x10193C7F#32 buf = .error (.illegalStimulus 0x10193C7F#32) ∧
    decodeStimulus 0x20000010#32 buf = .error (.illegalStimulus 0x20000010#32) ∧
    decodeStimulus 0x60000000#32 buf = .error (.illegalStimulus 0x60000000#32)

/-- 30_encoding.md R66, R71 and the `cond` of the relay rows: decoding the words of a well-formed instruction gives it
back, at every operand and at every budget its row allows. -/
def Obligations.DecodeOfEncodeIsTheInstruction : Prop :=
  ∀ (i : Instr) (budZero : Bool), i.wf = true → i.budgetCond budZero = true →
    decode budZero (encode i) = .ok i

/-- 30_encoding.md R66: a word that decodes is the word of its instruction (the buffer too, where RXBUF carries it),
and a relay byte is the byte of its class, which is well formed and meets its row's condition. -/
def Obligations.EncodeOfDecodeIsTheWord : Prop :=
  (∀ (w : Word) (buf : Buffer) (i : Instr), decodeStimulus w buf = .ok i →
    i.wf = true ∧ ∃ buf' : Buffer, encode i = .stimulus w buf' ∧ (w = 0x30000000#32 → buf' = buf)) ∧
  (∀ (budZero : Bool) (b : Byte),
    encode (decodeRelay budZero b) = .relay b ∧ (decodeRelay budZero b).wf = true ∧
      (decodeRelay budZero b).budgetCond budZero = true)

/-- 30_encoding.md R71: the row of a legal word's instruction is the single stimulus row that covers the word. -/
def Obligations.OneOpcodeRowCoversALegalWord : Prop :=
  ∀ (w : Word) (buf : Buffer), ¬ IllegalWord w →
    ∃ i, decodeStimulus w buf = .ok i ∧ i.row ∈ stimulusRows ∧
      ∀ r ∈ stimulusRows, (r.covers w = true ↔ r = i.row)

/-- 30_encoding.md R67: exactly the words with a reserved OP or a reserved bit set are refused, by name. That a step
whose turn tries one is refused rests on the model's choices: the lists of offers and turns (logs 2, 3) and who holds
such a word (log 13). -/
def Obligations.IllegalWordsAreRefused : Prop :=
  (∀ (w : Word) (buf : Buffer), decodeStimulus w buf = .error (.illegalStimulus w) ↔ IllegalWord w) ∧
  (∀ (s : State) (c : Collaborator) (e : Env) (o : Offer),
    s.faulted = none → s.env.TurnIs (.offer c) e → s.env.offerOf c = some o → IllegalWord o.word →
    step s = .refused (.illegalStimulus o.word))

/-! ## The step -/

/-- 00_scope.md R4, 30_encoding.md R69, 60_exceptions.md R137: when the scheduled collaborator's stimulus decodes and
no hold keeps it, the step is its instruction's meaning on the state without that offer and that turn. The lists of
offers and turns are the model's (logs 2, 3). -/
def Obligations.StepRunsTheOfferedStimulus : Prop :=
  ∀ (s : State) (c : Collaborator) (e : Env) (o : Offer) (i : Instr),
    s.faulted = none → s.env.TurnIs (.offer c) e → s.env.offerOf c = some o →
    decodeStimulus o.word o.buf = .ok i → heldBy i s.framer = none →
    step s = exec i { s with env := { e with offers := s.env.offers.eraseP (fun x => x.source == c) } }

/-- 43_relay.md R117, 42_encoder.md R112: a scheduled RELAY runs the class of the byte at `RLY_IDX`; a scheduled
TXSEND runs TXSEND. The list of turns is the model's (log 3), and so is a RELAY turn outside a scan that passes with no
register changed (log 5). -/
def Obligations.StepRunsTheInternalSteps : Prop :=
  ∀ (s : State) (e : Env), s.faulted = none →
    (s.env.TurnIs .relay e → s.framer.rlyAct = true →
      step s = exec (decodeRelay (s.framer.bud == 0#8) (s.framer.rxbuf[s.framer.rlyIdx.toNat]'(s.framer.rlyIdx.isLt)))
        { s with env := e }) ∧
    (s.env.TurnIs .relay e → s.framer.rlyAct = false → step s = .next { s with env := e }) ∧
    (s.env.TurnIs .txSend e → step s = exec .txSend { s with env := e })

/-- 60_exceptions.md R137: a held stimulus is not taken; it stays offered and no register changes. That a held
attempt is a step that uses a turn is log 5's. -/
def Obligations.HeldStimulusStaysOffered : Prop :=
  (∀ (s : State) (c : Collaborator) (e : Env) (o : Offer) (i : Instr),
    s.faulted = none → s.env.TurnIs (.offer c) e → s.env.offerOf c = some o →
    decodeStimulus o.word o.buf = .ok i → heldBy i s.framer ≠ none →
    step s = .next { s with env := e } ∧ e.offers = s.env.offers) ∧
  (∀ (i : Instr) (s : State), s.faulted = none → heldBy i s.framer ≠ none → exec i s = .next s)

/-- 60_exceptions.md R137, the table: which steps the holds RelayBusy, TxSlotFull and TxInflight keep. -/
def Obligations.HoldsAreThoseOfTheTable : Prop :=
  ∀ (f : Framer),
    (∀ (i : Instr) (b : Byte), parseOperand i = some b → (heldBy i f = some .relayBusy ↔ f.rlyAct = true)) ∧
    (∀ (i : Instr) (n : Nibble) (d1 d2 : Byte), encodeOperands i = some (n, d1, d2) →
      (heldBy i f = some .relayBusy ↔ f.rlyAct = true) ∧
      (heldBy i f = some .txSlotFull ↔
        (n = 0x8#4 ∨ n = 0x9#4 ∨ n = 0xE#4) ∧ f.txs = true ∧ f.rlyAct = false)) ∧
    (∀ m : Nibble, heldBy (.setFilter m) f = some .relayBusy ↔ f.rlyAct = true) ∧
    (heldBy .txSend f = some .relayBusy ↔ f.rlyAct = true) ∧
    (heldBy .txSend f = some .txInflight ↔ f.rlyAct = false ∧ f.txs = true ∧ f.txInfl = true) ∧
    (∀ buf : Buffer, heldBy (.rxbuf buf) f = none) ∧ heldBy .txDone f = none ∧ heldBy .reset f = none

/-! ## StatusTable and status outputs -/

/-- 40_status_table.md R73, R74: the lengths and categories of the status bytes, by ranges. -/
def Obligations.StatusTableValues : Prop :=
  ∀ b : Byte,
    ((b.extractLsb' 4 4 = 0x8#4 ∨ b.extractLsb' 4 4 = 0x9#4 ∨ b.extractLsb' 4 4 = 0xA#4 ∨
        b.extractLsb' 4 4 = 0xB#4 ∨ b.extractLsb' 4 4 = 0xE#4) →
      lengthOf b = .ok 3#2 ∧ categoryOf b = .ok 0x1#4) ∧
    ((b.extractLsb' 4 4 = 0xC#4 ∨ b.extractLsb' 4 4 = 0xD#4) → lengthOf b = .ok 2#2 ∧ categoryOf b = .ok 0x1#4) ∧
    (b = 0xF1#8 ∨ b = 0xF3#8 → lengthOf b = .ok 2#2 ∧ categoryOf b = .ok 0x2#4) ∧
    (b = 0xF2#8 → lengthOf b = .ok 3#2 ∧ categoryOf b = .ok 0x2#4) ∧
    (b = 0xF4#8 ∨ b = 0xF5#8 ∨ b = 0xF6#8 → lengthOf b = .ok 1#2 ∧ categoryOf b = .ok 0x2#4) ∧
    (b = 0xF0#8 ∨ b = 0xF7#8 → lengthOf b = .ok 1#2 ∧ categoryOf b = .ok 0x8#4) ∧
    (0xF8 ≤ b.toNat → lengthOf b = .ok 1#2 ∧ categoryOf b = .ok 0x4#4)

/-- 40_status_table.md R75, 60_exceptions.md R136: below 0x80 the table has no value, only the fault that names the byte, which
an outside caller's call records and does nothing else; on a status byte the call has no effect. How a fault ends a
run is log 6's, the outside call log 8's. -/
def Obligations.TableDomainIsTheStatusBytes : Prop :=
  ∀ (b : Byte) (s : State), s.faulted = none →
    (b.toNat < 0x80 → lengthOf b = .error (.tableDomain b) ∧ categoryOf b = .error (.tableDomain b) ∧
      callTable b s = .next { s with faulted := some (.tableDomain b) }) ∧
    (0x80 ≤ b.toNat → (∃ n c, lengthOf b = .ok n ∧ categoryOf b = .ok c) ∧ callTable b s = .next s)

/-- 10_state.md R23, R24, R34, R38: the derived outputs, and, in a state that meets R25, `CUR_CAT` is one of the four
values R24 names. -/
def Obligations.DerivedStatusOutputs : Prop :=
  ∀ s : State,
    (s.status.isSx = true ↔ s.parser.sxs = .active) ∧
    s.status.busy = s.framer.rlyAct ∧
    (s.parser.sxs = .active → s.status.curCat = .ok 0x8#4) ∧
    (s.parser.sxs ≠ .active → s.parser.accN ≠ 0#2 → s.status.curCat = categoryOf s.parser.acc[0]) ∧
    (s.parser.sxs ≠ .active → s.parser.accN = 0#2 → s.status.curCat = .ok 0x0#4) ∧
    (s.parser.Inv → s.parser.sxs ≠ .active → s.parser.accN ≠ 0#2 →
      s.status.curCat = .ok 0x1#4 ∨ s.status.curCat = .ok 0x2#4)

/-! ## Reset -/

/-- 70_reset_and_hazards.md R149, R151, 60_exceptions.md R136: RESET is one step from every state that is not faulted,
whatever is held or scanned; it writes the listed registers, leaves `ACC`, `REQ` and `RXBUF`, makes no call, and is
not taken in a faulted state (log 6). The model's lists of inputs stay (log 13). -/
def Obligations.ResetWritesTheListedRegisters : Prop :=
  ∀ s : State,
    (s.faulted = none → exec .reset s = .next { s with
      parser := { rs := 0x00#8, sxs := .inactive, sxf := false, acc := s.parser.acc, accN := 0#2,
                  req := s.parser.req, fltPend := 0xF#4, flt := 0xF#4, lastCat := 0x0#4, wasSx := false }
      framer := { txs := false, txp := #v[0x00#8, 0x00#8, 0x00#8, 0x00#8], txInfl := false, bud := 0#8,
                  bufUf := false, rlyAct := false, rlyIdx := 0#6, rxbuf := s.framer.rxbuf } }) ∧
    (∀ f, s.faulted = some f → exec .reset s = .fault f)

/-- 10_state.md R13 to R33 (I1), R39, 70_reset_and_hazards.md R153: the machine after reset has the reset values the
spec states (not those of `ACC`, `REQ` and `RXBUF`, which are log 1's), meets `CleanEntry` and the invariants; no packet has been
offered (log 9). -/
def Obligations.StateAfterReset : Prop :=
  State.reset.parser.rs = 0x00#8 ∧ State.reset.parser.sxs = .inactive ∧ State.reset.parser.sxf = false ∧
  State.reset.parser.accN = 0#2 ∧ State.reset.parser.fltPend = 0xF#4 ∧ State.reset.parser.flt = 0xF#4 ∧
  State.reset.parser.lastCat = 0x0#4 ∧ State.reset.parser.wasSx = false ∧
  State.reset.framer.txs = false ∧ State.reset.framer.txp = #v[0x00#8, 0x00#8, 0x00#8, 0x00#8] ∧
  State.reset.framer.txInfl = false ∧ State.reset.framer.bud = 0#8 ∧ State.reset.framer.bufUf = false ∧
  State.reset.framer.rlyAct = false ∧ State.reset.framer.rlyIdx = 0#6 ∧ State.reset.faulted = none ∧
  State.reset.CleanEntry ∧ State.reset.Inv ∧ State.reset.PacketsOk

/-- 70_reset_and_hazards.md R150 items 1 and 2: after RESET, whatever was open, a data byte is an orphan and the
filter lets every category pass. -/
def Obligations.ResetForgetsTheMessage : Prop :=
  ∀ (s t : State) (d : BitVec 7), exec .reset s = .next t →
    exec (.parseData d) t = .next { t with log := { t.log with
      results := t.log.results ++ [.error .dataByteWithoutStatus (dataByte d)] } } ∧
    (∀ c : Nibble, c = 0x1#4 ∨ c = 0x2#4 ∨ c = 0x4#4 ∨ c = 0x8#4 → t.parser.flt &&& c ≠ 0x0#4)

/-! ## PARSE -/

/-- 41_parser.md R78: the per-class meanings agree with Dispatch, tested in its own order, on the byte each class
stands for. -/
def Obligations.ParseMeaningsAgreeWithDispatch : Prop :=
  ∀ (i : Instr) (b : Byte) (s : State), parseOperand i = some b →
    decodeParse b = i ∧ exec i s = parseFrame (dispatchByte b) s

/-- 41_parser.md R76, R77: in a state that meets R25, every PARSE that is not held completes with one result; it writes
`WAS_SX`, commits the filter only at a message boundary, and touches nothing outside the Parser unit. -/
def Obligations.EveryParseByteCompletes : Prop :=
  ∀ (i : Instr) (b : Byte) (s : State), parseOperand i = some b → s.faulted = none → s.framer.rlyAct = false →
    s.parser.Inv →
    ∃ (r : Result) (p : Parser),
      exec i s = .next { s with parser := p, log := { s.log with results := s.log.results ++ [r] } } ∧
      (p.wasSx = true ↔ s.parser.sxs = .active) ∧ p.fltPend = s.parser.fltPend ∧
      p.flt = (if s.parser.accN = 0#2 ∧ s.parser.sxs ≠ .active then s.parser.fltPend else s.parser.flt)

/-- 41_parser.md R79, R88 to R97: outside an active SysEx a status byte of length 2 or 3 starts a message; the result is
Pending and a partial message is dropped. -/
def Obligations.LongStatusStartsAMessage : Prop :=
  ∀ (i : Instr) (b : Byte) (n : BitVec 2) (s : State), parseOperand i = some b → lengthOf b = .ok n → n ≠ 1#2 →
    s.faulted = none → s.framer.rlyAct = false → s.parser.sxs ≠ .active →
    exec i s = .next { s with
      parser := { s.parser with rs := b, acc := s.parser.acc.set 0 b, accN := 1#2, req := n,
                                flt := s.parser.committedFlt, wasSx := false }
      log := { s.log with results := s.log.results ++ [.pending] } }

/-- 41_parser.md R79, R83, R98, R99: outside an active SysEx 0xF4, 0xF5 and 0xF6 complete at once, subject to the filter. -/
def Obligations.OneByteStatusCompletes : Prop :=
  ∀ (i : Instr) (b : Byte) (s : State), (i = .parseTune ∨ ∃ x, i = .parseUndef x) → parseOperand i = some b →
    s.faulted = none → s.framer.rlyAct = false → s.parser.sxs ≠ .active →
    exec i s = .next { s with
      parser := { s.parser with rs := b, acc := s.parser.acc.set 0 b, accN := 0#2, req := 1#2, lastCat := 0x2#4,
                                flt := s.parser.committedFlt, wasSx := false }
      log := { s.log with results := s.log.results ++
        [if s.parser.committedFlt &&& 0x2#4 ≠ 0x0#4 then .complete [b] 1#2 0x2#4 else .pending] } }

/-- 41_parser.md R84, 60_exceptions.md R132: a status byte 0x80 to 0xF6 but 0xF0 inside an active SysEx returns
UnterminatedSysEx, whatever the filter, and is in force as a fresh status. -/
def Obligations.StatusInsideSysExIsUnterminated : Prop :=
  ∀ (i : Instr) (b : Byte) (n : BitVec 2) (s : State), parseOperand i = some b → lengthOf b = .ok n →
    b.toNat ≤ 0xF6 → b ≠ 0xF0#8 → s.faulted = none → s.framer.rlyAct = false → s.parser.sxs = .active →
    exec i s = .next { s with
      parser := { s.parser with
        rs := b, sxs := .errored, sxf := false, acc := s.parser.acc.set 0 b, req := n,
        accN := if n = 1#2 then 0#2 else 1#2,
        lastCat := if n = 1#2 then 0x2#4 else s.parser.lastCat, wasSx := true }
      log := { s.log with results := s.log.results ++ [.error .unterminatedSysEx b] } }

/-- 41_parser.md R80, R87: 0xF0 opens a SysEx in both cases; inside an active SysEx its result is the error. -/
def Obligations.SysExStartOpens : Prop :=
  ∀ s : State, s.faulted = none → s.framer.rlyAct = false →
    (s.parser.sxs ≠ .active → exec .parseSox s = .next { s with
      parser := { s.parser with rs := 0x00#8, accN := 0#2, sxs := .active, sxf := true,
                                flt := s.parser.committedFlt, wasSx := false }
      log := { s.log with results := s.log.results ++
        [if s.parser.committedFlt &&& 0x8#4 ≠ 0x0#4 then .sysExByte 0xF0#8 false false else .pending] } }) ∧
    (s.parser.sxs = .active → exec .parseSox s = .next { s with
      parser := { s.parser with rs := 0x00#8, accN := 0#2, sxs := .active, sxf := true, wasSx := true }
      log := { s.log with results := s.log.results ++ [.error .unterminatedSysEx 0xF0#8] } })

/-- 41_parser.md R86: 0xF7 closes an active SysEx (case A) and is Pending with nothing written otherwise (case B). -/
def Obligations.EndOfExclusiveCloses : Prop :=
  ∀ s : State, s.faulted = none → s.framer.rlyAct = false →
    (s.parser.sxs = .active → exec .parseEox s = .next { s with
      parser := { s.parser with sxs := .inactive, sxf := false, lastCat := 0x8#4, wasSx := true }
      log := { s.log with results := s.log.results ++
        [if s.parser.flt &&& 0x8#4 ≠ 0x0#4 then .sysExByte 0xF7#8 false true else .pending] } }) ∧
    (s.parser.sxs ≠ .active → exec .parseEox s = .next { s with
      parser := { s.parser with flt := s.parser.committedFlt, wasSx := false }
      log := { s.log with results := s.log.results ++ [.pending] } })

/-- 41_parser.md R85: a real-time byte completes at once in every SysEx state and writes `LAST_CAT` alone, beside what
the frame writes. -/
def Obligations.RealTimeByteIsTransparent : Prop :=
  ∀ (x : BitVec 3) (s : State), s.faulted = none → s.framer.rlyAct = false →
    exec (.parseRt x) s = .next { s with
      parser := { s.parser with lastCat := 0x4#4, flt := s.parser.committedFlt,
                                wasSx := decide (s.parser.sxs = .active) }
      log := { s.log with results := s.log.results ++
        [if s.parser.committedFlt &&& 0x4#4 ≠ 0x0#4 then .complete [realTimeByte x] 1#2 0x4#4 else .pending] } }

/-- 41_parser.md R100 case A: a data byte of an open SysEx; it is the first exactly when `SXF` is set. -/
def Obligations.SysExDataByte : Prop :=
  ∀ (d : BitVec 7) (s : State), s.faulted = none → s.framer.rlyAct = false → s.parser.sxs = .active →
    exec (.parseData d) s = .next { s with
      parser := { s.parser with sxf := false, wasSx := true }
      log := { s.log with results := s.log.results ++
        [if s.parser.flt &&& 0x8#4 ≠ 0x0#4 then .sysExByte (dataByte d) s.parser.sxf false
         else .pending] } }

/-- 41_parser.md R82, R83, R100 case B, in a state that meets R25: a data byte of a message in progress is appended, and
completes it when it is the last; the message is the status byte and the data bytes in order. -/
def Obligations.DataByteContinuesTheMessage : Prop :=
  ∀ (d : BitVec 7) (c : Nibble) (s : State), s.faulted = none → s.framer.rlyAct = false → s.parser.Inv →
    s.parser.accN ≠ 0#2 → categoryOf s.parser.rs = .ok c →
    (s.parser.accN + 1#2 ≠ s.parser.req → s.parser.accN = 1#2 ∧ s.parser.req = 3#2 ∧
      exec (.parseData d) s = .next { s with
        parser := { s.parser with acc := s.parser.acc.set 1 (dataByte d), accN := 2#2, wasSx := false }
        log := { s.log with results := s.log.results ++ [.pending] } }) ∧
    (s.parser.accN = 1#2 → s.parser.req = 2#2 → exec (.parseData d) s = .next { s with
      parser := { s.parser with acc := s.parser.acc.set 1 (dataByte d), accN := 0#2, lastCat := c, wasSx := false }
      log := { s.log with results := s.log.results ++
        [if s.parser.flt &&& c ≠ 0x0#4 then .complete [s.parser.rs, dataByte d] 2#2 c else .pending] } }) ∧
    (s.parser.accN = 2#2 → exec (.parseData d) s = .next { s with
      parser := { s.parser with acc := s.parser.acc.set 2 (dataByte d), accN := 0#2, lastCat := c, wasSx := false }
      log := { s.log with results := s.log.results ++
        [if s.parser.flt &&& c ≠ 0x0#4 then .complete [s.parser.rs, s.parser.acc[1], dataByte d] 3#2 c
         else .pending] } })

/-- 41_parser.md R82, R83, R100 case C: with no message in progress a data byte starts one from a running status of
length 2 or 3; at length 2 it completes it. -/
def Obligations.DataByteStartsFromRunningStatus : Prop :=
  ∀ (d : BitVec 7) (n : BitVec 2) (c : Nibble) (s : State), s.faulted = none → s.framer.rlyAct = false →
    s.parser.sxs ≠ .active → s.parser.accN = 0#2 → lengthOf s.parser.rs = .ok n → categoryOf s.parser.rs = .ok c →
    (n = 3#2 → exec (.parseData d) s = .next { s with
      parser := { s.parser with acc := (s.parser.acc.set 0 s.parser.rs).set 1 (dataByte d), accN := 2#2, req := 3#2,
                                flt := s.parser.fltPend, wasSx := false }
      log := { s.log with results := s.log.results ++ [.pending] } }) ∧
    (n = 2#2 → exec (.parseData d) s = .next { s with
      parser := { s.parser with acc := (s.parser.acc.set 0 s.parser.rs).set 1 (dataByte d), accN := 0#2, req := 2#2,
                                lastCat := c, flt := s.parser.fltPend, wasSx := false }
      log := { s.log with results := s.log.results ++
        [if s.parser.fltPend &&& c ≠ 0x0#4 then .complete [s.parser.rs, dataByte d] 2#2 c else .pending] } })

/-- 60_exceptions.md R133, 41_parser.md R100 case D: with no message in progress, and no running status or one of
length 1, a data byte is an error; no register changes but those the frame writes. -/
def Obligations.OrphanDataByteIsDiscarded : Prop :=
  ∀ (d : BitVec 7) (s : State), s.faulted = none → s.framer.rlyAct = false → s.parser.sxs ≠ .active →
    s.parser.accN = 0#2 → (s.parser.rs = 0x00#8 ∨ lengthOf s.parser.rs = .ok 1#2) →
    exec (.parseData d) s = .next { s with
      parser := { s.parser with flt := s.parser.fltPend, wasSx := false }
      log := { s.log with results := s.log.results ++ [.error .dataByteWithoutStatus (dataByte d)] } }

/-- 41_parser.md R81: a completion or a SysEx byte is returned only if its category passes the filter in force after
the commit. -/
def Obligations.OnlyEnabledCategoriesSurface : Prop :=
  ∀ (i : Instr) (b : Byte) (s t : State) (r : Result), parseOperand i = some b → exec i s = .next t →
    t.log.results = s.log.results ++ [r] →
    (∀ m l c, r = .complete m l c → t.parser.flt &&& c ≠ 0x0#4) ∧
    (∀ x f l, r = .sysExByte x f l → t.parser.flt &&& 0x8#4 ≠ 0x0#4)

/-- 41_parser.md R102: the state after a PARSE is the same whatever the two filter registers hold, apart from them:
`FLT_PEND` keeps its value (R77). Only the returned result depends on the filter. -/
def Obligations.FilterDoesNotSteerTheParser : Prop :=
  ∀ (i : Instr) (b : Byte) (s t : State) (fl fp : Nibble), parseOperand i = some b → exec i s = .next t →
    ∃ t', exec i { s with parser := { s.parser with flt := fl, fltPend := fp } } = .next t' ∧
      { t'.parser with flt := t.parser.flt, fltPend := t.parser.fltPend } = t.parser ∧ t'.parser.fltPend = fp ∧
      t'.framer = t.framer ∧ t'.env = t.env ∧ t'.log.calls = t.log.calls ∧
      t'.log.results.length = t.log.results.length ∧ t'.faulted = t.faulted

/-- 41_parser.md R101: from every state (so from every reachable one), a status byte 0x80 to 0xEF or 0xF1 to 0xF3 and its data bytes
end in its completion; the status byte itself is an error inside an active SysEx, else Pending. -/
def Obligations.StatusByteRecoversTheParser : Prop :=
  ∀ (p : Parser) (b : Byte) (n : BitVec 2) (c : Nibble) (ds : List (BitVec 7)),
    lengthOf b = .ok n → categoryOf b = .ok c → n ≠ 1#2 → ds.length + 1 = n.toNat →
    ∃ (r : Result) (rs : List Result) (p' : Parser),
      feedBytes (b :: ds.map dataByte) p = .ok (r :: rs, p') ∧
      r = (if p.sxs = .active then .error .unterminatedSysEx b else .pending) ∧
      rs.getLast? = some (if p'.flt &&& c ≠ 0x0#4 then .complete (b :: ds.map dataByte) n c else .pending)

/-- 41_parser.md R103: after a completion of status `s`, every group of `len(s) - 1` data bytes completes one more
message of that status, for any number of groups. -/
def Obligations.RunningStatusRepeats : Prop :=
  ∀ (p : Parser) (n : BitVec 2) (c : Nibble) (groups : List (List (BitVec 7))),
    p.sxs ≠ .active → p.accN = 0#2 → lengthOf p.rs = .ok n → categoryOf p.rs = .ok c → n ≠ 1#2 →
    (∀ g ∈ groups, g.length + 1 = n.toNat) →
    ∃ p', feedBytes (groups.flatten.map dataByte) p = .ok
        (groups.flatMap (fun g => List.replicate (n.toNat - 2) Result.pending ++
          [if p.fltPend &&& c ≠ 0x0#4 then Result.complete (p.rs :: g.map dataByte) n c else Result.pending]), p') ∧
      p'.rs = p.rs ∧ p'.accN = 0#2

/-- 41_parser.md R104: deleting the real-time bytes of a stream changes no result of another byte, and no register at
the end but `LAST_CAT`, `WAS_SX` and `FLT`. -/
def Obligations.RealTimeBytesCanBeDeleted : Prop :=
  ∀ (bs : List Byte) (p p' : Parser) (rs : List Result), feedBytes bs p = .ok (rs, p') →
    ∃ p'', feedBytes (withoutRealTime bs) p = .ok (resultsWithoutRealTime bs rs, p'') ∧
      { p'' with lastCat := p'.lastCat, wasSx := p'.wasSx, flt := p'.flt } = p'

/-- 10_state.md R25, R13: every step keeps the invariants of the Parser unit, from every state that meets them. -/
def Obligations.ParserInvariantIsKept : Prop :=
  ∀ s t : State, s.parser.Inv → step s = .next t → t.parser.Inv

/-! ## SETFILTER -/

/-- 44_control.md R127, R129: SETFILTER writes `FLT_PEND` alone, and twice is once. -/
def Obligations.SetFilterStagesTheMask : Prop :=
  ∀ (m : Nibble) (s : State), s.faulted = none → s.framer.rlyAct = false →
    exec (.setFilter m) s = .next { s with parser := { s.parser with fltPend := m } } ∧
    (∀ t, exec (.setFilter m) s = .next t → exec (.setFilter m) t = .next t)

/-! ## ENCODE and the hand-off -/

/-- 42_encoder.md R106 to R109: a mapped ENCODE that is not held builds its packet, with velocity 0 rewritten for
note-on alone, and changes nothing else. -/
def Obligations.MappedEncodeBuildsThePacket : Prop :=
  ∀ (d1 d2 : Byte) (s : State), s.faulted = none → s.framer.rlyAct = false → s.framer.txs = false →
    exec (.encodeNoteOff d1 d2) s = .next { s with
      framer := { s.framer with txp := #v[0x08#8, 0x80#8, d1, d2], txs := true } } ∧
    (d2 ≠ 0x00#8 → exec (.encodeNoteOn d1 d2) s = .next { s with
      framer := { s.framer with txp := #v[0x09#8, 0x90#8, d1, d2], txs := true } }) ∧
    (d2 = 0x00#8 → exec (.encodeNoteOn d1 d2) s = .next { s with
      framer := { s.framer with txp := #v[0x08#8, 0x80#8, d1, 0x00#8], txs := true } }) ∧
    exec (.encodePb d1 d2) s = .next { s with
      framer := { s.framer with txp := #v[0x0E#8, 0xE0#8, d1, d2], txs := true } }

/-- 42_encoder.md R110: an unmapped ENCODE changes nothing; a full slot does not hold it. During a scan it is
held (R105), and that a held attempt answers the same state is log 5's. -/
def Obligations.UnmappedEncodeIsANoOp : Prop :=
  ∀ (i : Instr) (n : Nibble) (d1 d2 : Byte) (s : State), encodeOperands i = some (n, d1, d2) →
    n ≠ 0x8#4 → n ≠ 0x9#4 → n ≠ 0xE#4 → s.faulted = none → exec i s = .next s

/-- 42_encoder.md R112: TXSEND is enabled with a packet in the slot, none in flight and no scan; it offers the slot and
on `Accepted` moves it in flight; on `Busy` no register changes. The answer is the next listed one, or any value of
the free draw (log 4). That a TXSEND that is not enabled answers the state unchanged is log 5's. -/
def Obligations.TxSendOffersTheSlot : Prop :=
  ∀ s : State, s.faulted = none →
    (s.framer.txs = true → s.framer.txInfl = false → s.framer.rlyAct = false →
      (∀ e, s.env.SendIs .accepted e → exec .txSend s = .next { s with
        framer := { s.framer with txs := false, txInfl := true }
        env := e
        log := { s.log with calls := s.log.calls ++ [.trySend s.framer.txp .accepted] } }) ∧
      (∀ e, s.env.SendIs .busy e → exec .txSend s = .next { s with
        env := e
        log := { s.log with calls := s.log.calls ++ [.trySend s.framer.txp .busy] } })) ∧
    (s.framer.txs = false ∨ s.framer.txInfl = true ∨ s.framer.rlyAct = true → exec .txSend s = .next s)

/-- 42_encoder.md R113: TXDONE clears `TX_INFL` alone, during a scan too; with no packet in flight it records
TxDoneSpurious and changes nothing else (log 6). -/
def Obligations.TxDoneReportsThePacket : Prop :=
  ∀ s : State, s.faulted = none →
    (s.framer.txInfl = true → exec .txDone s = .next { s with framer := { s.framer with txInfl := false } }) ∧
    (s.framer.txInfl = false → exec .txDone s = .next { s with faulted := some .txDoneSpurious })

/-- 42_encoder.md R111, 10_state.md R35 items 2 and 3: from a state whose packets are the encoder's, every step keeps it
so: no note-on with velocity 0 is ever offered to USB. -/
def Obligations.NoZeroVelocityNoteOnIsOffered : Prop :=
  ∀ s t : State, s.PacketsOk → step s = .next t → t.PacketsOk

/-- 42_encoder.md R114 (with R105, R112): a packet in the slot is neither overwritten nor dropped; it leaves the slot by an
`Accepted` answer to an offer of exactly it, or by RESET. -/
def Obligations.PacketStaysUntilAccepted : Prop :=
  ∀ (i : Instr) (s t : State), s.framer.txs = true → exec i s = .next t → i ≠ .reset →
    (t.framer.txs = true ∧ t.framer.txp = s.framer.txp ∧
      acceptedPackets t.log.calls = acceptedPackets s.log.calls) ∨
    (i = .txSend ∧ t.framer.txs = false ∧ t.framer.txInfl = true ∧
      t.log.calls = s.log.calls ++ [.trySend s.framer.txp .accepted])

/-! ## The relay -/

/-- 43_relay.md R115, R124: a delivery latches the buffer and starts the scan at index 0, leaving the budget; during a
scan it records RxOverrun and changes nothing else (log 6). -/
def Obligations.DeliveryLatchesTheBuffer : Prop :=
  ∀ (buf : Buffer) (s : State), s.faulted = none →
    (s.framer.rlyAct = false → exec (.rxbuf buf) s = .next { s with
      framer := { s.framer with rxbuf := buf, rlyIdx := 0#6, rlyAct := true } }) ∧
    (s.framer.rlyAct = true → exec (.rxbuf buf) s = .next { s with faulted := some .rxOverrun })

/-- 43_relay.md R118, R119, R122: while the budget is 0 a marker sets it to 3 or 1, emits nothing and asks nothing; the
index goes up, or at index 63 the scan ends with one `requestNextBuffer`. -/
def Obligations.MarkersSetTheBudget : Prop :=
  ∀ (s : State) (i : Instr) (n : Budget), s.faulted = none → s.framer.rlyAct = true → s.framer.bud = 0#8 →
    ((i = .relayMark3 ∧ s.framer.visited = 0x04#8 ∧ n = 3#8) ∨
      (i = .relayMark1 ∧ s.framer.visited = 0x05#8 ∧ n = 1#8)) →
    (s.framer.rlyIdx ≠ 63#6 → exec i s = .next { s with
      framer := { s.framer with bud := n, rlyIdx := s.framer.rlyIdx + 1#6 } }) ∧
    (s.framer.rlyIdx = 63#6 → exec i s = .next { s with
      framer := { s.framer with bud := n, rlyIdx := 0#6, rlyAct := false }
      log := { s.log with calls := s.log.calls ++ [.requestNextBuffer] } })

/-- 43_relay.md R120, R122: a ready serial link takes 0xF7; the budget becomes 0, `BUF_UF` stays, and the scan ends
there. The answer is listed or drawn (log 4). -/
def Obligations.RelayedEndOfExclusiveStopsTheScan : Prop :=
  ∀ (s : State) (e : Env), s.faulted = none → s.framer.rlyAct = true → s.framer.visited = 0xF7#8 →
    s.env.ReadyIs true e →
    exec .relayEox s = .next { s with
      framer := { s.framer with bud := 0#8, rlyIdx := 0#6, rlyAct := false }
      env := e
      log := { s.log with calls := s.log.calls ++ [.transmitReady true, .transmitByte 0xF7#8, .requestNextBuffer] } }

/-- 43_relay.md R121, R122, R123: a ready serial link takes any other byte unchanged; the budget is decremented, and
`BUF_UF` is set when it is then negative. The answer is listed or drawn (log 4). -/
def Obligations.RelayedByteSpendsTheBudget : Prop :=
  ∀ (s : State) (b : Byte) (e : Env), s.faulted = none → s.framer.rlyAct = true → s.framer.visited = b →
    b ≠ 0xF7#8 → ¬ (s.framer.bud = 0#8 ∧ (b = 0x04#8 ∨ b = 0x05#8)) → s.env.ReadyIs true e →
    (s.framer.rlyIdx ≠ 63#6 → exec (.relayByte b) s = .next { s with
      framer := { s.framer with bud := satDec s.framer.bud, rlyIdx := s.framer.rlyIdx + 1#6,
                                bufUf := s.framer.bufUf || decide ((satDec s.framer.bud).toInt < 0) }
      env := e
      log := { s.log with calls := s.log.calls ++ [.transmitReady true, .transmitByte b] } }) ∧
    (s.framer.rlyIdx = 63#6 → exec (.relayByte b) s = .next { s with
      framer := { s.framer with bud := satDec s.framer.bud, rlyIdx := 0#6, rlyAct := false,
                                bufUf := s.framer.bufUf || decide ((satDec s.framer.bud).toInt < 0) }
      env := e
      log := { s.log with calls := s.log.calls ++ [.transmitReady true, .transmitByte b, .requestNextBuffer] } })

/-- 43_relay.md R125, 60_exceptions.md R135: while `transmitReady` answers `false` an emitting step does not take place: no
register changes and nothing is transmitted. The answer is listed or drawn (log 4); the attempt uses it up (log 5). -/
def Obligations.SerialNotReadyHoldsTheRelay : Prop :=
  ∀ (s : State) (e : Env), s.faulted = none → s.framer.rlyAct = true → s.env.ReadyIs false e →
    ¬ (s.framer.bud = 0#8 ∧ (s.framer.visited = 0x04#8 ∨ s.framer.visited = 0x05#8)) →
    exec (decodeRelay (s.framer.bud == 0#8) s.framer.visited) s = .next { s with
      env := e
      log := { s.log with calls := s.log.calls ++ [.transmitReady false] } }

/-- 43_relay.md R116: the decrement takes one away, saturates at -128 and never wraps, however often it is repeated. -/
def Obligations.BudgetDecrementSaturates : Prop :=
  (∀ x : Budget, (x.toInt = -128 → (satDec x).toInt = -128) ∧ (x.toInt ≠ -128 → (satDec x).toInt = x.toInt - 1)) ∧
  (∀ (k : Nat) (x : Budget), (satDec^[k] x).toInt = max (-128) (x.toInt - k))

/-- 10_state.md R35, items 1 to 4 and 6: every step keeps the invariants of the Framer unit, from every state that meets
them: the budget stays in -128..3, a negative one is flagged, and index plus budget stays even. -/
def Obligations.FramerInvariantIsKept : Prop :=
  ∀ s t : State, s.framer.Inv → step s = .next t → t.framer.Inv

/-- 43_relay.md R117 to R126, 20_memory.md R41, R44: a scan whose RELAY steps are taken one after the other on a ready
serial link does to the serial link, the budget and the flag what the scan function does to the buffer's bytes in
ascending order, visits no byte after an emitted 0xF7, and ends with one `requestNextBuffer`. The schedule and the
answers are the model's lists (logs 3, 4). -/
def Obligations.RelayScanRefinesTheBufferFunction : Prop :=
  ∀ (s : State) (restA : List Agent) (restR : List Bool) (r : ScanResult),
    s.faulted = none → s.framer.rlyAct = true → s.framer.rlyIdx = 0#6 →
    r = scanBytes s.framer.rxbuf.toList s.framer.bud s.framer.bufUf →
    s.env.schedule = List.replicate r.visited .relay ++ restA →
    s.env.readyAnswers = List.replicate r.emitted.length true ++ restR →
    ∃ t : State, core.run r.visited s = .next t ∧
      t.framer = { s.framer with bud := r.bud, bufUf := r.bufUf, rlyAct := false, rlyIdx := 0#6 } ∧
      t.parser = s.parser ∧ t.env = { s.env with schedule := restA, readyAnswers := restR } ∧
      serialBytes t.log.calls = serialBytes s.log.calls ++ r.emitted ∧
      rearmCount t.log.calls = rearmCount s.log.calls + 1 ∧ t.log.results = s.log.results ∧ t.faulted = none

/-- 70_reset_and_hazards.md R160: a negative budget stays negative, and no marker is consumed, until an 0xF7 or RESET. -/
def Obligations.NegativeBudgetSwitchesMarkersOff : Prop :=
  ∀ (i : Instr) (s t : State), s.framer.bud.toInt < 0 → exec i s = .next t → i ≠ .reset → i ≠ .relayEox →
    t.framer.bud.toInt < 0 ∧ t.framer.bud.toInt ≤ s.framer.bud.toInt ∧
      (t.framer.rlyIdx ≠ s.framer.rlyIdx → s.framer.rlyAct = true →
        serialBytes t.log.calls = serialBytes s.log.calls ++ [s.framer.visited])

/-- 20_memory.md R44, R47: a byte reaches the serial link only by a RELAY step, one at a time, and it is the byte at
`RLY_IDX`. -/
def Obligations.SerialBytesComeFromTheBuffer : Prop :=
  ∀ (i : Instr) (s t : State), exec i s = .next t →
    serialBytes t.log.calls = serialBytes s.log.calls ∨
    (serialBytes t.log.calls = serialBytes s.log.calls ++ [s.framer.visited] ∧ s.framer.rlyAct = true ∧
      (i = .relayEox ∨ ∃ b, i = .relayByte b))

/-- 43_relay.md R122, 70_reset_and_hazards.md R151: `requestNextBuffer` is called exactly when a step other than RESET ends
a scan. -/
def Obligations.RearmExactlyAtScanEnd : Prop :=
  ∀ (i : Instr) (s t : State), exec i s = .next t →
    rearmCount t.log.calls = rearmCount s.log.calls +
      (if i ≠ .reset ∧ s.framer.rlyAct = true ∧ t.framer.rlyAct = false then 1 else 0)

/-! ## Whole-machine rules -/

/-- 10_state.md R12, 20_memory.md R50: PARSE and SETFILTER leave the Framer unit and make no call; ENCODE, TXSEND, TXDONE,
RXBUF and RELAY leave the Parser unit and return no result. -/
def Obligations.UnitsShareNoRegister : Prop :=
  ∀ (i : Instr) (s t : State), exec i s = .next t → i ≠ .reset →
    ((∃ b, parseOperand i = some b) ∨ (∃ m, i = .setFilter m) →
      t.framer = s.framer ∧ t.log.calls = s.log.calls ∧ t.env = s.env) ∧
    (¬ ((∃ b, parseOperand i = some b) ∨ (∃ m, i = .setFilter m)) →
      t.parser = s.parser ∧ t.log.results = s.log.results)

/-- 60_exceptions.md R139 item 1, 10_state.md R31, 70_reset_and_hazards.md R157: during a scan PARSE, ENCODE, SETFILTER and TXSEND
are not taken, and an RXBUF faults. That a held attempt answers the state unchanged is log 5's, and that raising the
fault is a step that records it and changes nothing else is log 6's. -/
def Obligations.ScanHoldsTheTaskLoop : Prop :=
  ∀ (i : Instr) (s : State), s.faulted = none → s.framer.rlyAct = true →
    ((∃ b, parseOperand i = some b) ∨ (∃ n d1 d2, encodeOperands i = some (n, d1, d2)) ∨
      (∃ m, i = .setFilter m) ∨ i = .txSend → exec i s = .next s) ∧
    (∀ buf, i = .rxbuf buf → exec i s = .next { s with faulted := some .rxOverrun })

/-- 60_exceptions.md R136, 10_state.md R39: a faulted state has no further step of any kind, RESET included: every
attempt answers the recorded fault (log 6). -/
def Obligations.FaultedStateHasNoStep : Prop :=
  ∀ (s : State) (f : Fault), s.faulted = some f → step s = .fault f ∧ ∀ i, exec i s = .fault f

/-- 60_exceptions.md R136, R148: in a state that meets R25, only an RXBUF during a scan and a TXDONE with no packet in
flight record a fault, each its own (log 6); no instruction is refused, and a held one answers the state unchanged
(log 5). -/
def Obligations.OnlyBrokenDutiesFault : Prop :=
  ∀ (i : Instr) (s : State), s.faulted = none → s.parser.Inv →
    ∃ t, exec i s = .next t ∧
      (∀ f, t.faulted = some f ↔
        (f = .rxOverrun ∧ s.framer.rlyAct = true ∧ ∃ buf, i = .rxbuf buf) ∨
        (f = .txDoneSpurious ∧ s.framer.txInfl = false ∧ i = .txDone))

/-- 60_exceptions.md R136, 41_parser.md R76, 42_encoder.md R105: however the schedule and the answers fall, a run whose offers are legal
words of PARSE, ENCODE, SETFILTER and RESET records no fault and meets no refusal. Offers, turns and answers are the
model's lists or free draws (logs 2, 3, 4), and a held step answers a next state (log 5). -/
def Obligations.LegalTaskLoopRunsAreSafe : Prop :=
  ∀ (n : Nat) (s : State), s.faulted = none → s.parser.Inv →
    (∀ o ∈ s.env.offers, ¬ IllegalWord o.word ∧ o.word.extractLsb' 28 4 ≠ 0x3#4 ∧ o.word.extractLsb' 28 4 ≠ 0x4#4) →
    SafeAfter n s

/-- 20_memory.md R49, 70_reset_and_hazards.md R164: the sequences of results and calls only grow; a step returns at most one
result. -/
def Obligations.SequencesOnlyGrow : Prop :=
  ∀ s t : State, step s = .next t →
    ∃ (rs : List Result) (cs : List Call), t.log.results = s.log.results ++ rs ∧ rs.length ≤ 1 ∧
      t.log.calls = s.log.calls ++ cs

/-- 70_reset_and_hazards.md R164, 60_exceptions.md R147: in a quiescent state that is not faulted nothing changes: a turn of the
schedule passes and that is all (logs 3, 5). -/
def Obligations.QuiescentStateIsIdle : Prop :=
  ∀ s : State, s.faulted = none → s.Quiescent →
    ∃ t, step s = .next t ∧ t.parser = s.parser ∧ t.framer = s.framer ∧ t.log = s.log ∧ t.faulted = none ∧
      t.env.offers = s.env.offers ∧ t.Quiescent

/-! ## The result word -/

/-- 30_encoding.md R62: results and result words are in one-to-one correspondence. -/
def Obligations.ResultWordIsOneToOne : Prop :=
  (∀ r : Result, r.wf = true → resultOfWord (resultWord r) = some r) ∧
  (∀ (w : Word) (r : Result), resultOfWord w = some r → r.wf = true ∧ resultWord r = w)

/-- 30_encoding.md R61: in a state that meets R25, every result a PARSE returns is one of the results R61 allows. -/
def Obligations.ReturnedResultsAreLegal : Prop :=
  ∀ (i : Instr) (b : Byte) (s t : State) (r : Result), parseOperand i = some b → s.parser.Inv → exec i s = .next t →
    t.log.results = s.log.results ++ [r] → r.wf = true
end

