-- ==== Sys2Proof/Laws/State.lean ====
section
/-! SUPPORT. One lemma per field and update of the state's records, true by `rfl`, so that no proof unfolds a record update. -/

namespace Sys2Proof.Machine

@[simp] theorem State.setParser_parser (s : State) (p : Parser) : (s.setParser p).parser = p := rfl
@[simp] theorem State.setParser_framer (s : State) (p : Parser) : (s.setParser p).framer = s.framer := rfl
@[simp] theorem State.setParser_env (s : State) (p : Parser) : (s.setParser p).env = s.env := rfl
@[simp] theorem State.setParser_log (s : State) (p : Parser) : (s.setParser p).log = s.log := rfl
@[simp] theorem State.setParser_faulted (s : State) (p : Parser) : (s.setParser p).faulted = s.faulted := rfl

@[simp] theorem State.setFramer_parser (s : State) (f : Framer) : (s.setFramer f).parser = s.parser := rfl
@[simp] theorem State.setFramer_framer (s : State) (f : Framer) : (s.setFramer f).framer = f := rfl
@[simp] theorem State.setFramer_env (s : State) (f : Framer) : (s.setFramer f).env = s.env := rfl
@[simp] theorem State.setFramer_log (s : State) (f : Framer) : (s.setFramer f).log = s.log := rfl
@[simp] theorem State.setFramer_faulted (s : State) (f : Framer) : (s.setFramer f).faulted = s.faulted := rfl

@[simp] theorem State.setEnv_parser (s : State) (e : Env) : (s.setEnv e).parser = s.parser := rfl
@[simp] theorem State.setEnv_framer (s : State) (e : Env) : (s.setEnv e).framer = s.framer := rfl
@[simp] theorem State.setEnv_env (s : State) (e : Env) : (s.setEnv e).env = e := rfl
@[simp] theorem State.setEnv_log (s : State) (e : Env) : (s.setEnv e).log = s.log := rfl
@[simp] theorem State.setEnv_faulted (s : State) (e : Env) : (s.setEnv e).faulted = s.faulted := rfl

@[simp] theorem State.returnResult_parser (s : State) (r : Result) : (s.returnResult r).parser = s.parser := rfl
@[simp] theorem State.returnResult_framer (s : State) (r : Result) : (s.returnResult r).framer = s.framer := rfl
@[simp] theorem State.returnResult_env (s : State) (r : Result) : (s.returnResult r).env = s.env := rfl
@[simp] theorem State.returnResult_faulted (s : State) (r : Result) : (s.returnResult r).faulted = s.faulted := rfl

@[simp] theorem State.call_parser (s : State) (c : Call) : (s.call c).parser = s.parser := rfl
@[simp] theorem State.call_framer (s : State) (c : Call) : (s.call c).framer = s.framer := rfl
@[simp] theorem State.call_env (s : State) (c : Call) : (s.call c).env = s.env := rfl
@[simp] theorem State.call_faulted (s : State) (c : Call) : (s.call c).faulted = s.faulted := rfl

@[simp] theorem State.returnResult_results (s : State) (r : Result) :
    (s.returnResult r).log.results = s.log.results ++ [r] := rfl
@[simp] theorem State.returnResult_calls (s : State) (r : Result) :
    (s.returnResult r).log.calls = s.log.calls := rfl
@[simp] theorem State.call_results (s : State) (c : Call) : (s.call c).log.results = s.log.results := rfl
@[simp] theorem State.call_calls (s : State) (c : Call) : (s.call c).log.calls = s.log.calls ++ [c] := rfl

@[simp] theorem Framer.latch_txs (f : Framer) (b : Buffer) : (f.latch b).txs = f.txs := rfl
@[simp] theorem Framer.latch_txp (f : Framer) (b : Buffer) : (f.latch b).txp = f.txp := rfl
@[simp] theorem Framer.latch_txInfl (f : Framer) (b : Buffer) : (f.latch b).txInfl = f.txInfl := rfl
@[simp] theorem Framer.latch_bud (f : Framer) (b : Buffer) : (f.latch b).bud = f.bud := rfl
@[simp] theorem Framer.latch_bufUf (f : Framer) (b : Buffer) : (f.latch b).bufUf = f.bufUf := rfl
@[simp] theorem Framer.latch_rlyAct (f : Framer) (b : Buffer) : (f.latch b).rlyAct = true := rfl
@[simp] theorem Framer.latch_rlyIdx (f : Framer) (b : Buffer) : (f.latch b).rlyIdx = 0#6 := rfl
@[simp] theorem Framer.latch_rxbuf (f : Framer) (b : Buffer) : (f.latch b).rxbuf = b := rfl

@[simp] theorem Framer.endScan_txs (f : Framer) : (f.endScan).txs = f.txs := rfl
@[simp] theorem Framer.endScan_txp (f : Framer) : (f.endScan).txp = f.txp := rfl
@[simp] theorem Framer.endScan_txInfl (f : Framer) : (f.endScan).txInfl = f.txInfl := rfl
@[simp] theorem Framer.endScan_bud (f : Framer) : (f.endScan).bud = f.bud := rfl
@[simp] theorem Framer.endScan_bufUf (f : Framer) : (f.endScan).bufUf = f.bufUf := rfl
@[simp] theorem Framer.endScan_rlyAct (f : Framer) : (f.endScan).rlyAct = false := rfl
@[simp] theorem Framer.endScan_rlyIdx (f : Framer) : (f.endScan).rlyIdx = 0#6 := rfl
@[simp] theorem Framer.endScan_rxbuf (f : Framer) : (f.endScan).rxbuf = f.rxbuf := rfl

@[simp] theorem Framer.accepted_txs (f : Framer) : (f.accepted).txs = false := rfl
@[simp] theorem Framer.accepted_txp (f : Framer) : (f.accepted).txp = f.txp := rfl
@[simp] theorem Framer.accepted_txInfl (f : Framer) : (f.accepted).txInfl = true := rfl
@[simp] theorem Framer.accepted_bud (f : Framer) : (f.accepted).bud = f.bud := rfl
@[simp] theorem Framer.accepted_bufUf (f : Framer) : (f.accepted).bufUf = f.bufUf := rfl
@[simp] theorem Framer.accepted_rlyAct (f : Framer) : (f.accepted).rlyAct = f.rlyAct := rfl
@[simp] theorem Framer.accepted_rlyIdx (f : Framer) : (f.accepted).rlyIdx = f.rlyIdx := rfl
@[simp] theorem Framer.accepted_rxbuf (f : Framer) : (f.accepted).rxbuf = f.rxbuf := rfl

@[simp] theorem Framer.spend_txs (f : Framer) : (f.spend).txs = f.txs := rfl
@[simp] theorem Framer.spend_txp (f : Framer) : (f.spend).txp = f.txp := rfl
@[simp] theorem Framer.spend_txInfl (f : Framer) : (f.spend).txInfl = f.txInfl := rfl
@[simp] theorem Framer.spend_bud (f : Framer) : (f.spend).bud = satDec f.bud := rfl
@[simp] theorem Framer.spend_bufUf (f : Framer) : (f.spend).bufUf = (f.bufUf || decide ((satDec f.bud).toInt < 0)) := rfl
@[simp] theorem Framer.spend_rlyAct (f : Framer) : (f.spend).rlyAct = f.rlyAct := rfl
@[simp] theorem Framer.spend_rlyIdx (f : Framer) : (f.spend).rlyIdx = f.rlyIdx := rfl
@[simp] theorem Framer.spend_rxbuf (f : Framer) : (f.spend).rxbuf = f.rxbuf := rfl

@[simp] theorem Framer.buildPacket_txs (f : Framer) (n : Nibble) (st d1 d2 : Byte) : (f.buildPacket n st d1 d2).txs = true := rfl
@[simp] theorem Framer.buildPacket_txInfl (f : Framer) (n : Nibble) (st d1 d2 : Byte) : (f.buildPacket n st d1 d2).txInfl = f.txInfl := rfl
@[simp] theorem Framer.buildPacket_bud (f : Framer) (n : Nibble) (st d1 d2 : Byte) : (f.buildPacket n st d1 d2).bud = f.bud := rfl
@[simp] theorem Framer.buildPacket_bufUf (f : Framer) (n : Nibble) (st d1 d2 : Byte) : (f.buildPacket n st d1 d2).bufUf = f.bufUf := rfl
@[simp] theorem Framer.buildPacket_rlyAct (f : Framer) (n : Nibble) (st d1 d2 : Byte) : (f.buildPacket n st d1 d2).rlyAct = f.rlyAct := rfl
@[simp] theorem Framer.buildPacket_rlyIdx (f : Framer) (n : Nibble) (st d1 d2 : Byte) : (f.buildPacket n st d1 d2).rlyIdx = f.rlyIdx := rfl
@[simp] theorem Framer.buildPacket_rxbuf (f : Framer) (n : Nibble) (st d1 d2 : Byte) : (f.buildPacket n st d1 d2).rxbuf = f.rxbuf := rfl

@[simp] theorem Framer.resetRegs_txs (f : Framer) : (f.resetRegs).txs = false := rfl
@[simp] theorem Framer.resetRegs_txInfl (f : Framer) : (f.resetRegs).txInfl = false := rfl
@[simp] theorem Framer.resetRegs_bud (f : Framer) : (f.resetRegs).bud = 0#8 := rfl
@[simp] theorem Framer.resetRegs_bufUf (f : Framer) : (f.resetRegs).bufUf = false := rfl
@[simp] theorem Framer.resetRegs_rlyAct (f : Framer) : (f.resetRegs).rlyAct = false := rfl
@[simp] theorem Framer.resetRegs_rlyIdx (f : Framer) : (f.resetRegs).rlyIdx = 0#6 := rfl
@[simp] theorem Framer.resetRegs_rxbuf (f : Framer) : (f.resetRegs).rxbuf = f.rxbuf := rfl

@[simp] theorem Parser.openSysEx_rs (p : Parser) : (p.openSysEx).rs = 0x00#8 := rfl
@[simp] theorem Parser.openSysEx_sxs (p : Parser) : (p.openSysEx).sxs = .active := rfl
@[simp] theorem Parser.openSysEx_sxf (p : Parser) : (p.openSysEx).sxf = true := rfl
@[simp] theorem Parser.openSysEx_acc (p : Parser) : (p.openSysEx).acc = p.acc := rfl
@[simp] theorem Parser.openSysEx_accN (p : Parser) : (p.openSysEx).accN = 0#2 := rfl
@[simp] theorem Parser.openSysEx_req (p : Parser) : (p.openSysEx).req = p.req := rfl
@[simp] theorem Parser.openSysEx_fltPend (p : Parser) : (p.openSysEx).fltPend = p.fltPend := rfl
@[simp] theorem Parser.openSysEx_flt (p : Parser) : (p.openSysEx).flt = p.flt := rfl
@[simp] theorem Parser.openSysEx_lastCat (p : Parser) : (p.openSysEx).lastCat = p.lastCat := rfl
@[simp] theorem Parser.openSysEx_wasSx (p : Parser) : (p.openSysEx).wasSx = p.wasSx := rfl

@[simp] theorem Parser.resetRegs_rs (p : Parser) : (p.resetRegs).rs = 0x00#8 := rfl
@[simp] theorem Parser.resetRegs_sxs (p : Parser) : (p.resetRegs).sxs = .inactive := rfl
@[simp] theorem Parser.resetRegs_sxf (p : Parser) : (p.resetRegs).sxf = false := rfl
@[simp] theorem Parser.resetRegs_acc (p : Parser) : (p.resetRegs).acc = p.acc := rfl
@[simp] theorem Parser.resetRegs_accN (p : Parser) : (p.resetRegs).accN = 0#2 := rfl
@[simp] theorem Parser.resetRegs_req (p : Parser) : (p.resetRegs).req = p.req := rfl
@[simp] theorem Parser.resetRegs_fltPend (p : Parser) : (p.resetRegs).fltPend = 0xF#4 := rfl
@[simp] theorem Parser.resetRegs_flt (p : Parser) : (p.resetRegs).flt = 0xF#4 := rfl
@[simp] theorem Parser.resetRegs_lastCat (p : Parser) : (p.resetRegs).lastCat = 0x0#4 := rfl
@[simp] theorem Parser.resetRegs_wasSx (p : Parser) : (p.resetRegs).wasSx = false := rfl

/-- The four bytes of a built packet (42_encoder.md R106). -/
@[simp] theorem Framer.buildPacket_txp (f : Framer) (n : Nibble) (st d1 d2 : Byte) :
    (f.buildPacket n st d1 d2).txp = #v[byteOfNibbles 0x0#4 n, st, d1, d2] := rfl

@[simp] theorem Framer.resetRegs_txp (f : Framer) :
    f.resetRegs.txp = #v[0x00#8, 0x00#8, 0x00#8, 0x00#8] := rfl

/-- The commit touches `FLT` alone. -/
theorem Parser.commitFilter_eq (p : Parser) : p.commitFilter = { p with flt := p.committedFlt } := by
  obtain ⟨rs, sxs, sxf, acc, accN, req, fp, flt, lc, ws⟩ := p
  by_cases h : accN = 0#2 <;> cases sxs <;>
    simp [Parser.commitFilter, Parser.committedFlt, Parser.inProgress, Parser.isSx, h]

end Sys2Proof.Machine
end

