-- ==== Sys2Proof/Laws/Ops.lean ====
section
/-! SUPPORT. What the shared operations can do, said once: guards, answers, arrays, the end of a scan. -/

namespace Sys2Proof.Machine

/-! ## Guards -/

theorem unlessFaulted_of_none {s : State} {k : State → StepOutcome} (h : s.faulted = none) :
    unlessFaulted s k = k s := by
  simp [unlessFaulted, h]

theorem unlessFaulted_of_some {s : State} {k : State → StepOutcome} {f : Fault} (h : s.faulted = some f) :
    unlessFaulted s k = .fault f := by
  simp [unlessFaulted, h]

/-- A guarded step that answers a next state was not faulted. -/
theorem unlessFaulted_next {s t : State} {k : State → StepOutcome} :
    unlessFaulted s k = .next t ↔ s.faulted = none ∧ k s = .next t := by
  cases h : s.faulted <;> simp [unlessFaulted, h]

theorem unlessRelayBusy_of_idle {s : State} {k : State → StepOutcome} (h : s.framer.rlyAct = false) :
    unlessRelayBusy s k = k s := by
  simp [unlessRelayBusy, h]

theorem unlessRelayBusy_of_busy {s : State} {k : State → StepOutcome} (h : s.framer.rlyAct = true) :
    unlessRelayBusy s k = .next s := by
  simp [unlessRelayBusy, heldStep, h]

/-- A step behind the hold RelayBusy is either held, and nothing changes, or runs with no scan active. -/
theorem unlessRelayBusy_next {s t : State} {k : State → StepOutcome} :
    unlessRelayBusy s k = .next t ↔
      (s.framer.rlyAct = true ∧ t = s) ∨ (s.framer.rlyAct = false ∧ k s = .next t) := by
  cases h : s.framer.rlyAct <;> simp [unlessRelayBusy, heldStep, h, eq_comm]

@[simp] theorem raiseFault_next {s t : State} {f : Fault} :
    raiseFault f s = .next t ↔ t = { s with faulted := some f } := by
  simp [raiseFault, eq_comm]

@[simp] theorem heldStep_next {s t : State} {h : Hold} : heldStep h s = .next t ↔ t = s := by
  simp [heldStep, eq_comm]

@[simp] theorem idleStep_next {s t : State} : idleStep s = .next t ↔ t = s := by
  simp [idleStep, eq_comm]

/-! ## Answers -/

/-- The two forms of an answer of `transmitReady`: listed, or drawn. -/
theorem nextReady_iff {e e' : Env} {a : Bool} : e.nextReady = (a, e') ↔ e.ReadyIs a e' := by
  unfold Env.nextReady Env.ReadyIs
  cases h : e.readyAnswers <;> simp [Prod.ext_iff, eq_comm]

theorem nextSend_iff {e e' : Env} {a : SendAnswer} : e.nextSend = (a, e') ↔ e.SendIs a e' := by
  unfold Env.nextSend Env.SendIs
  cases h : e.sendAnswers <;> simp [Prod.ext_iff, eq_comm]

theorem nextAgent_iff {e e' : Env} {a : Agent} : e.nextAgent = (a, e') ↔ e.TurnIs a e' := by
  unfold Env.nextAgent Env.TurnIs
  cases h : e.schedule <;> simp [Prod.ext_iff, eq_comm]

@[simp] theorem nextAgent_offers (e : Env) : e.nextAgent.2.offers = e.offers := by
  unfold Env.nextAgent; cases e.schedule <;> rfl

@[simp] theorem nextReady_offers (e : Env) : e.nextReady.2.offers = e.offers := by
  unfold Env.nextReady; cases e.readyAnswers <;> rfl

@[simp] theorem nextSend_offers (e : Env) : e.nextSend.2.offers = e.offers := by
  unfold Env.nextSend; cases e.sendAnswers <;> rfl

/-- Taking an offer leaves only offers that were there. -/
theorem mem_takeOffer {e : Env} {c : Collaborator} {o : Offer} (h : o ∈ (e.takeOffer c).offers) : o ∈ e.offers :=
  List.mem_of_mem_eraseP h

/-! ## Arrays -/

/-- `ACC` has the indices 0 to 2. -/
theorem writeAcc_ok {acc : Vector Byte 3} {i : BitVec 2} {b : Byte} (h : i.toNat < 3) :
    writeAcc acc i b = .ok (acc.set i.toNat b h) := by
  simp [writeAcc, h]

/-! ## The end of a scan -/

/-- `advanceScan` ends the scan or moves the index, nothing else. -/
theorem advanceScan_cases (s : State) (stop : Bool) :
    ((stop = true ∨ s.framer.rlyIdx = 63#6) ∧ s.advanceScan stop = s.endScan) ∨
    (stop = false ∧ s.framer.rlyIdx ≠ 63#6 ∧
      s.advanceScan stop = s.setFramer { s.framer with rlyIdx := s.framer.rlyIdx + 1#6 }) := by
  have key : (s.framer.rlyIdx.toNat == Config.relayLen - 1) = decide (s.framer.rlyIdx = 63#6) := by
    rw [Bool.eq_iff_iff]; simp [← BitVec.toNat_inj]
  unfold State.advanceScan
  rw [key]
  cases stop <;> by_cases h : s.framer.rlyIdx = 63#6 <;> simp [h]

@[simp] theorem endScan_parser (s : State) : s.endScan.parser = s.parser := rfl
@[simp] theorem endScan_framer (s : State) : s.endScan.framer = s.framer.endScan := rfl
@[simp] theorem endScan_env (s : State) : s.endScan.env = s.env := rfl
@[simp] theorem endScan_results (s : State) : s.endScan.log.results = s.log.results := rfl
@[simp] theorem endScan_calls (s : State) : s.endScan.log.calls = s.log.calls ++ [.requestNextBuffer] := rfl
@[simp] theorem endScan_faulted (s : State) : s.endScan.faulted = s.faulted := rfl

/-! ## The sequences of calls -/

@[simp] theorem serialBytes_append (a b : List Call) : serialBytes (a ++ b) = serialBytes a ++ serialBytes b := by
  simp [serialBytes]
@[simp] theorem acceptedPackets_append (a b : List Call) :
    acceptedPackets (a ++ b) = acceptedPackets a ++ acceptedPackets b := by
  simp [acceptedPackets]
@[simp] theorem rearmCount_append (a b : List Call) : rearmCount (a ++ b) = rearmCount a + rearmCount b := by
  simp [rearmCount]

end Sys2Proof.Machine
end

