-- ==== Sys2Proof/Laws/Framer.lean ====
section
/-! SUPPORT. What the encoder, the hand-off and the relay steps can do, said once each. -/

namespace Sys2Proof.Machine

/-! ## Outbound -/

/-- A mapped ENCODE is held, and nothing changes, or builds its packet into an empty slot. -/
theorem encodeMapped_next {cin : Nibble} {st d1 d2 : Byte} {s t : State} :
    encodeMapped cin st d1 d2 s = .next t ↔ s.faulted = none ∧
      (((s.framer.rlyAct = true ∨ s.framer.txs = true) ∧ t = s) ∨
       (s.framer.rlyAct = false ∧ s.framer.txs = false ∧ t = s.setFramer (s.framer.buildPacket cin st d1 d2))) := by
  unfold encodeMapped
  rw [unlessFaulted_next, unlessRelayBusy_next]
  cases s.framer.rlyAct <;> cases s.framer.txs <;> simp [heldStep, eq_comm]

/-- An unmapped ENCODE changes nothing. -/
theorem encodeUnmapped_next {s t : State} : encodeUnmapped s = .next t ↔ s.faulted = none ∧ t = s := by
  unfold encodeUnmapped
  rw [unlessFaulted_next, unlessRelayBusy_next]
  cases s.framer.rlyAct <;> simp [eq_comm]

/-- TXSEND is not enabled, or offers the slot and gets one of the two answers. -/
theorem execTxSend_next {s t : State} :
    execTxSend s = .next t ↔ s.faulted = none ∧
      ((s.framer.sendEnabled = false ∧ t = s) ∨
       (s.framer.sendEnabled = true ∧ ∃ e,
         (s.env.SendIs .accepted e ∧
           t = ((s.setEnv e).call (.trySend s.framer.txp .accepted)).setFramer s.framer.accepted) ∨
         (s.env.SendIs .busy e ∧ t = (s.setEnv e).call (.trySend s.framer.txp .busy)))) := by
  unfold execTxSend
  rw [unlessFaulted_next]
  cases hs : s.framer.sendEnabled with
  | false => simp
  | true =>
    obtain ⟨a, e, h⟩ : ∃ a e, s.env.nextSend = (a, e) := ⟨_, _, rfl⟩
    have key : ∀ a' e', s.env.SendIs a' e' ↔ a' = a ∧ e' = e := by
      intro a' e'; rw [← nextSend_iff, h]; simp [eq_comm]
    simp only [key, State.callTrySend, h]
    cases a <;> simp [heldStep, eq_comm]

/-- TXDONE clears the in-flight flag or records the fault. -/
theorem execTxDone_next {s t : State} :
    execTxDone s = .next t ↔ s.faulted = none ∧
      ((s.framer.txInfl = true ∧ t = s.setFramer { s.framer with txInfl := false }) ∨
       (s.framer.txInfl = false ∧ t = { s with faulted := some .txDoneSpurious })) := by
  unfold execTxDone
  rw [unlessFaulted_next]
  cases s.framer.txInfl <;> simp [raiseFault, eq_comm]

/-! ## Inbound -/

/-- RXBUF latches the buffer or records the fault. -/
theorem execRxbuf_next {buf : Buffer} {s t : State} :
    execRxbuf buf s = .next t ↔ s.faulted = none ∧
      ((s.framer.rlyAct = false ∧ t = s.setFramer (s.framer.latch buf)) ∨
       (s.framer.rlyAct = true ∧ t = { s with faulted := some .rxOverrun })) := by
  unfold execRxbuf
  rw [unlessFaulted_next]
  cases s.framer.rlyAct <;> simp [raiseFault, eq_comm]

/-- A marker step is not enabled, or writes the budget and advances the scan. -/
theorem relayMarker_next {marker : Byte} {n : Budget} {s t : State} :
    relayMarker marker n s = .next t ↔ s.faulted = none ∧
      ((¬ (s.framer.visits marker = true ∧ s.framer.budZero = true) ∧ t = s) ∨
       (s.framer.visits marker = true ∧ s.framer.budZero = true ∧
         t = (s.setFramer { s.framer with bud := s.framer.bud + n }).advanceScan false)) := by
  unfold relayMarker
  rw [unlessFaulted_next]
  cases s.framer.visits marker <;> cases s.framer.budZero <;> simp [idleStep, eq_comm]

/-- An emitting step waits, or transmits its byte, writes the budget and advances the scan. -/
theorem relayEmit_next {b : Byte} {upd : Framer → Framer} {stop : Bool} {s t : State} :
    relayEmit b upd stop s = .next t ↔ ∃ e,
      (s.env.ReadyIs true e ∧
        t = ((((s.setEnv e).call (.transmitReady true)).call (.transmitByte b)).setFramer
          (upd s.framer)).advanceScan stop) ∨
      (s.env.ReadyIs false e ∧ t = (s.setEnv e).call (.transmitReady false)) := by
  unfold relayEmit
  obtain ⟨a, e, h⟩ : ∃ a e, s.env.nextReady = (a, e) := ⟨_, _, rfl⟩
  have key : ∀ a' e', s.env.ReadyIs a' e' ↔ a' = a ∧ e' = e := by
    intro a' e'; rw [← nextReady_iff, h]; simp [eq_comm]
  simp only [key, State.callTransmitReady, h]
  cases a <;> simp [heldStep, eq_comm]

/-- RELAY.EOX is not enabled, or is an emitting step. -/
theorem execRelayEox_next {s t : State} :
    execRelayEox s = .next t ↔ s.faulted = none ∧
      ((s.framer.visits Config.eox = false ∧ t = s) ∨
       (s.framer.visits Config.eox = true ∧
         relayEmit Config.eox (fun f => { f with bud := 0#8 }) true s = .next t)) := by
  unfold execRelayEox
  rw [unlessFaulted_next]
  cases s.framer.visits Config.eox <;> simp

/-- The condition of RELAY.BYTE's row. -/
def Framer.relaysByte (f : Framer) (b : Byte) : Bool :=
  f.visits b && b != Config.eox && !(f.budZero && (b == Config.mark3 || b == Config.mark1))

/-- RELAY.BYTE is not enabled, or is an emitting step. -/
theorem execRelayByte_next {b : Byte} {s t : State} :
    execRelayByte b s = .next t ↔ s.faulted = none ∧
      ((s.framer.relaysByte b = false ∧ t = s) ∨
       (s.framer.relaysByte b = true ∧ relayEmit b Framer.spend false s = .next t)) := by
  unfold execRelayByte
  rw [unlessFaulted_next]
  change s.faulted = none ∧ (if s.framer.relaysByte b = true then _ else _) = _ ↔ _
  cases s.framer.relaysByte b <;> simp

/-- A step visits the byte at `RLY_IDX` of an active scan. -/
theorem visits_iff {f : Framer} {b : Byte} : f.visits b = true ↔ f.rlyAct = true ∧ f.visited = b := by
  simp [Framer.visits]

/-! ## The budget -/

/-- The floor and the step of the decrement, as integers. -/
theorem satDec_bounds (x : Budget) :
    (satDec x).toInt ≤ x.toInt ∧ x.toInt - 1 ≤ (satDec x).toInt ∧ -128 ≤ (satDec x).toInt := by
  revert x; decide

end Sys2Proof.Machine
end

