-- ==== Sys2Proof/Laws/Parse.lean ====
section
/-! SUPPORT. What the parser's procedures and the PARSE frame can do, said once each. -/

namespace Sys2Proof.Machine

/-! ## The status table -/

/-- A length is 1, 2 or 3, and only a status byte has one. -/
theorem lengthOf_ok {b : Byte} {n : BitVec 2} (h : lengthOf b = .ok n) :
    0x80 ≤ b.toNat ∧ (n = 1#2 ∨ n = 2#2 ∨ n = 3#2) := by
  unfold lengthOf at h
  repeat' split at h
  all_goals first | (cases h; done) | (cases h; exact ⟨by omega, by simp⟩)

/-- Every status byte has a length. -/
theorem lengthOf_status {b : Byte} (h : 0x80 ≤ b.toNat) : ∃ n, lengthOf b = .ok n := by
  unfold lengthOf
  repeat' split
  all_goals first | omega | exact ⟨_, rfl⟩

/-- Every status byte has a category. -/
theorem categoryOf_status {b : Byte} (h : 0x80 ≤ b.toNat) : ∃ c, categoryOf b = .ok c := by
  unfold categoryOf
  repeat' split
  all_goals first | omega | exact ⟨_, rfl⟩

/-! ## Procedures -/

/-- The three bytes of `ACC` as a list. -/
theorem acc_toList (v : Vector Byte 3) : v.toList = [v[0], v[1], v[2]] := by
  apply List.ext_getElem
  · simp
  · intro i h _
    have : i < 3 := by simpa using h
    interval_cases i <;> simp

/-- A message whose first byte is a status byte finishes. -/
theorem finish_ok {p : Parser} {c : Nibble} (h : categoryOf p.acc[0] = .ok c) :
    finish p = .ok (.complete (p.acc.toList.take p.req.toNat) p.req c, { p with accN := 0#2, lastCat := c }) := by
  simp [finish, h]

/-- A status byte of length 2 or 3 waits for its data. -/
theorem startStatus_long {b : Byte} {n : BitVec 2} (h : lengthOf b = .ok n) (hn : n ≠ 1#2) (p : Parser) :
    startStatus b p = .ok (.pending, { p with rs := b, acc := p.acc.set 0 b, accN := 1#2, req := n }) := by
  simp [startStatus, h, hn]

/-- A status byte of length 1 finishes at once. -/
theorem startStatus_one {b : Byte} {c : Nibble} (h : lengthOf b = .ok 1#2) (hc : categoryOf b = .ok c) (p : Parser) :
    startStatus b p = .ok (.complete [b] 1#2 c,
      { p with rs := b, acc := p.acc.set 0 b, accN := 0#2, req := 1#2, lastCat := c }) := by
  simp [startStatus, h, finish, hc, acc_toList]

/-! ## No procedure writes a filter register or reads one -/

/-- A branch leaves both filter registers. -/
def KeepsFilter (branch : Parser → ParseStep) : Prop :=
  ∀ p r q, branch p = .ok (r, q) → q.flt = p.flt ∧ q.fltPend = p.fltPend

theorem finish_keepsFilter : KeepsFilter finish := by
  intro p r q h
  unfold finish at h
  split at h
  · cases h
  · cases h; exact ⟨rfl, rfl⟩

theorem startStatus_keepsFilter (b : Byte) : KeepsFilter (startStatus b) := by
  intro p r q h
  unfold startStatus at h
  split at h
  · cases h
  · dsimp only at h
    split at h
    · have k := finish_keepsFilter _ _ _ h
      exact k
    · cases h; exact ⟨rfl, rfl⟩

theorem appendByte_keepsFilter (b : Byte) : KeepsFilter (appendByte b) := by
  intro p r q h
  unfold appendByte at h
  split at h
  · cases h
  · dsimp only at h
    split at h
    · have k := finish_keepsFilter _ _ _ h
      exact k
    · cases h; exact ⟨rfl, rfl⟩

theorem appendData_keepsFilter (b : Byte) : KeepsFilter (appendData b) := by
  intro p r q h
  unfold appendData at h
  split at h
  · split at h
    · cases h; exact ⟨rfl, rfl⟩
    · split at h
      · cases h
      · split at h
        · cases h; exact ⟨rfl, rfl⟩
        · have k := appendByte_keepsFilter _ _ _ _ h
          exact k
  · exact appendByte_keepsFilter _ _ _ _ h

theorem unterminated_keepsFilter (b : Byte) : KeepsFilter (unterminated b) := by
  intro p r q h
  unfold unterminated at h
  dsimp only at h
  split at h
  · cases h
  · rename_i r' q' hq
    cases h
    split at hq
    · cases hq; exact ⟨rfl, rfl⟩
    · have := startStatus_keepsFilter b _ _ _ hq
      exact this

theorem realTimeBranch_keepsFilter (b : Byte) : KeepsFilter (realTimeBranch b) := by
  intro p r q h
  cases h
  exact ⟨rfl, rfl⟩

theorem eoxBranch_keepsFilter : KeepsFilter eoxBranch := by
  intro p r q h
  unfold eoxBranch at h
  split at h <;> cases h <;> exact ⟨rfl, rfl⟩

theorem soxBranch_keepsFilter : KeepsFilter soxBranch := by
  intro p r q h
  unfold soxBranch at h
  split at h
  · exact unterminated_keepsFilter _ _ _ _ h
  · cases h; exact ⟨rfl, rfl⟩

theorem statusBranch_keepsFilter (b : Byte) : KeepsFilter (statusBranch b) := by
  intro p r q h
  unfold statusBranch at h
  split at h
  · exact unterminated_keepsFilter _ _ _ _ h
  · exact startStatus_keepsFilter _ _ _ _ h

theorem dataBranch_keepsFilter (b : Byte) : KeepsFilter (dataBranch b) := by
  intro p r q h
  unfold dataBranch at h
  split at h
  · cases h; exact ⟨rfl, rfl⟩
  · exact appendData_keepsFilter _ _ _ _ h

theorem dispatchByte_keepsFilter (b : Byte) : KeepsFilter (dispatchByte b) := by
  intro p r q h
  unfold dispatchByte at h
  repeat' split at h
  · exact realTimeBranch_keepsFilter _ _ _ _ h
  · exact eoxBranch_keepsFilter _ _ _ h
  · exact unterminated_keepsFilter _ _ _ _ h
  · exact dataBranch_keepsFilter _ _ _ _ h
  · cases h; exact ⟨rfl, rfl⟩
  · cases h; exact ⟨rfl, rfl⟩
  · exact startStatus_keepsFilter _ _ _ _ h
  · exact appendData_keepsFilter _ _ _ _ h

/-! ## The frame -/

/-- PARSE on the unit, inverted: the branch ran on the committed unit, `WAS_SX` was written and the result surfaced. -/
theorem parseUnit_ok {branch : Parser → ParseStep} {p q : Parser} {r : Result} :
    parseUnit branch p = .ok (r, q) ↔
      ∃ r' q', branch { p with flt := p.committedFlt } = .ok (r', q') ∧ r = surface q'.flt r' ∧
        q = { q' with wasSx := p.isSx } := by
  unfold parseUnit
  rw [Parser.commitFilter_eq]
  cases h : branch { p with flt := p.committedFlt } with
  | error f => simp
  | ok x =>
    obtain ⟨r', q'⟩ := x
    constructor
    · intro e; cases e; exact ⟨_, _, rfl, rfl, rfl⟩
    · rintro ⟨_, _, e, rfl, rfl⟩; cases e; rfl

/-- PARSE on the machine, inverted: held, or a fault recorded, or one result returned. -/
theorem parseFrame_next {branch : Parser → ParseStep} {s t : State} :
    parseFrame branch s = .next t ↔ s.faulted = none ∧
      ((s.framer.rlyAct = true ∧ t = s) ∨
       (s.framer.rlyAct = false ∧
         ((∃ f, parseUnit branch s.parser = .error f ∧ t = { s with faulted := some f }) ∨
          (∃ r p, parseUnit branch s.parser = .ok (r, p) ∧ t = (s.setParser p).returnResult r)))) := by
  unfold parseFrame
  rw [unlessFaulted_next, unlessRelayBusy_next]
  cases h : parseUnit branch s.parser with
  | error f => simp
  | ok x =>
    obtain ⟨r, p⟩ := x
    simp only [reduceCtorEq, false_and, exists_false, false_or, Except.ok.injEq, Prod.mk.injEq,
      Host.Outcome.next.injEq]
    constructor
    · rintro ⟨hf, h | ⟨ha, h⟩⟩
      · exact ⟨hf, .inl h⟩
      · exact ⟨hf, .inr ⟨ha, r, p, ⟨rfl, rfl⟩, h.symm⟩⟩
    · rintro ⟨hf, h | ⟨ha, _, _, ⟨rfl, rfl⟩, h⟩⟩
      · exact ⟨hf, .inl h⟩
      · exact ⟨hf, .inr ⟨ha, h.symm⟩⟩

/-- A PARSE that is not held and whose branch succeeds returns its result. -/
theorem parseFrame_ok {branch : Parser → ParseStep} {s : State} {r : Result} {p : Parser}
    (hf : s.faulted = none) (ha : s.framer.rlyAct = false) (h : parseUnit branch s.parser = .ok (r, p)) :
    parseFrame branch s = .next ((s.setParser p).returnResult r) :=
  parseFrame_next.2 ⟨hf, .inr ⟨ha, .inr ⟨r, p, h, rfl⟩⟩⟩

end Sys2Proof.Machine
end

