-- ==== Sys2Proof/Laws/Step.lean ====
section
/-! SUPPORT. What one step of the machine can do, said once: the inversion every invariant goes through. -/

namespace Sys2Proof.Machine

/-- A collaborator's turn: nothing is taken, or its stimulus runs. -/
theorem stepOffer_next {c : Collaborator} {s t : State} (h : stepOffer c s = .next t) :
    t = s ∨ ∃ o i, s.env.offerOf c = some o ∧ decodeStimulus o.word o.buf = .ok i ∧ heldBy i s.framer = none ∧
      exec i (s.setEnv (s.env.takeOffer c)) = .next t := by
  unfold stepOffer at h
  split at h
  · exact .inl (idleStep_next.1 h)
  · rename_i o ho
    split at h
    · cases h
    · rename_i i hi
      split at h
      · exact .inl (heldStep_next.1 h)
      · rename_i hh
        exact .inr ⟨o, i, ho, hi, hh, h⟩

/-- The relay's turn. -/
theorem stepRelay_next {s t : State} (h : stepRelay s = .next t) :
    t = s ∨ (s.framer.rlyAct = true ∧ exec (decodeRelay s.framer.budZero s.framer.visited) s = .next t) := by
  unfold stepRelay at h
  split at h
  · rename_i ha; exact .inr ⟨ha, h⟩
  · exact .inl (idleStep_next.1 h)

/-- A step answers a next state only when not faulted; then either only the inputs moved, or one instruction ran on
the state with some of its inputs taken. -/
theorem step_next {s t : State} (h : step s = .next t) :
    s.faulted = none ∧ ((∃ e, t = s.setEnv e) ∨ ∃ i e, exec i (s.setEnv e) = .next t) := by
  unfold step stepMachine at h
  rw [unlessFaulted_next] at h
  refine ⟨h.1, ?_⟩
  have h := h.2
  cases ha : s.env.nextAgent.1 with
  | offer c =>
    rw [ha] at h
    rcases stepOffer_next h with rfl | ⟨o, i, -, -, -, hx⟩
    · exact .inl ⟨_, rfl⟩
    · exact .inr ⟨i, _, hx⟩
  | txSend =>
    rw [ha] at h
    exact .inr ⟨.txSend, _, h⟩
  | relay =>
    rw [ha] at h
    rcases stepRelay_next h with rfl | ⟨-, hx⟩
    · exact .inl ⟨_, rfl⟩
    · exact .inr ⟨_, _, hx⟩

/-- An invariant that does not look at the inputs and that every instruction keeps is kept by every step. -/
theorem step_keeps {P : State → Prop} (henv : ∀ s e, P s → P (s.setEnv e))
    (hexec : ∀ i s t, P s → exec i s = .next t → P t) {s t : State} (hs : P s) (h : step s = .next t) : P t := by
  obtain ⟨-, ⟨e, rfl⟩ | ⟨i, e, hx⟩⟩ := step_next h
  · exact henv s e hs
  · exact hexec i _ t (henv s e hs) hx

end Sys2Proof.Machine
end

