-- ==== Sys2Proof/Machine/Duties.lean ====
section
/-! DEFINITION. The collaborators' duties (60_exceptions.md R148), stated of a run without an end, as fairness assumptions on the
schedule and the answers. No meaning and no step depends on them: "A safety claim needs none of them" (R148). -/

namespace Sys2Proof.Machine

/-! ## Runs without an end -/

/-- The collaborators' plan goes on: they offer and answer more, and withdraw nothing (60_exceptions.md R137, R139 item 3). -/
structure Env.Extends (e e' : Env) : Prop where
  offers : ∃ more, e'.offers = e.offers ++ more
  schedule : ∃ more, e'.schedule = e.schedule ++ more
  readyAnswers : ∃ more, e'.readyAnswers = e.readyAnswers ++ more
  sendAnswers : ∃ more, e'.sendAnswers = e.sendAnswers ++ more
  draws : e'.draws = e.draws

/-- A run: every step answers a next state, after which the collaborators may plan more. -/
def IsRun (r : Nat → State) : Prop :=
  ∀ n, ∃ t, step (r n) = .next t ∧ ∃ e, t.env.Extends e ∧ r (n + 1) = t.setEnv e

/-- The step from `r n` is agent `a`'s turn (60_exceptions.md R139). -/
def TurnAt (r : Nat → State) (a : Agent) (n : Nat) : Prop := (r n).env.nextAgent.1 = a

/-- The step from `r n` makes the call `c`, with its answer. -/
def CallAt (r : Nat → State) (c : Call) (n : Nat) : Prop :=
  c ∈ (r (n + 1)).log.calls.drop (r n).log.calls.length

/-- The step from `r n` takes a stimulus that collaborator `c` offers and that spells `i`. -/
def TakenAt (r : Nat → State) (c : Collaborator) (i : Instr) (n : Nat) : Prop :=
  TurnAt r (.offer c) n ∧ ∃ o, (r n).env.offerOf c = some o ∧ decodeStimulus o.word o.buf = .ok i ∧
    heldBy i (r n).framer = none

/-- Again and again, the model's reading of "eventually" (DESIGN CHOICE, log 14). -/
def Often (p : Nat → Prop) : Prop := ∀ n, ∃ m, n ≤ m ∧ p m

/-! ## The duties that end a wait -/

/-- Serial transmitter: "for liveness, eventually answer `transmitReady() = true`". It may answer `false` any finite
number of times. -/
def ReadyInTheEnd (r : Nat → State) : Prop :=
  Often (fun n => ∃ a, CallAt r (.transmitReady a) n) → Often (CallAt r (.transmitReady true))

/-- USB transmit: "eventually answer `Accepted` to a repeated `trySend`". -/
def AcceptedInTheEnd (r : Nat → State) : Prop :=
  Often (fun n => ∃ p a, CallAt r (.trySend p a) n) → Often (fun n => ∃ p, CallAt r (.trySend p .accepted) n)

/-- USB transmit: "eventually offer TXDONE after each `Accepted`", which is then taken (no hold keeps it), unless a RESET forgets the packet
(70_reset_and_hazards.md R155 item 2; DESIGN CHOICE, log 14). -/
def DoneInTheEnd (r : Nat → State) : Prop :=
  ∀ n p, CallAt r (.trySend p .accepted) n →
    ∃ m, n < m ∧ (TakenAt r .usbTransmit .txDone m ∨ ∃ c, TakenAt r c .reset m)

/-- The schedule starves no agent (DESIGN CHOICE, log 14: R148 speaks of "fairness assumptions on the schedule"). -/
def FairSchedule (r : Nat → State) : Prop := ∀ a, Often (TurnAt r a)

/-- The liveness duties of R148. -/
structure LivenessDuties (r : Nat → State) : Prop where
  ready : ReadyInTheEnd r
  accepted : AcceptedInTheEnd r
  done : DoneInTheEnd r
  fair : FairSchedule r

/-! ## The duties whose breach is a model fault -/

/-- USB receive: "deliver only while `RLY_ACT = 0`". -/
def DeliversBetweenScans (r : Nat → State) : Prop :=
  ∀ c buf n, TakenAt r c (.rxbuf buf) n → (r n).framer.rlyAct = false

/-- USB transmit, "assumed never": a TXDONE with no packet in flight. -/
def ReportsPacketsInFlight (r : Nat → State) : Prop :=
  ∀ c n, TakenAt r c .txDone n → (r n).framer.txInfl = true

end Sys2Proof.Machine
end

