-- ==== Sys2Proof/Laws/Duties.lean ====
section
/-! SUPPORT. What the duties of 60_exceptions.md R148 give: a run breaks none of the duties whose breach is a fault, and with
the serial transmitter's duty and a fair schedule every scan ends. -/

namespace Sys2Proof.Machine

/-! ## The fields a plan leaves -/

@[simp] theorem takeOffer_setEnv_framer (s : State) (c : Collaborator) :
    (s.setEnv (s.env.takeOffer c)).framer = s.framer := rfl

/-- The state after a step of a run, up to the plan. -/
theorem IsRun.next {r : Nat → State} (h : IsRun r) (n : Nat) :
    ∃ t e, step (r n) = .next t ∧ r (n + 1) = t.setEnv e := by
  obtain ⟨t, ht, e, -, he⟩ := h n
  exact ⟨t, e, ht, he⟩

/-- No state of a run is faulted. -/
theorem IsRun.not_faulted {r : Nat → State} (h : IsRun r) (n : Nat) : (r n).faulted = none := by
  obtain ⟨t, -, ht, -⟩ := h.next n
  exact (step_next ht).1

/-- A turn that takes a stimulus runs its meaning. -/
theorem step_of_takenAt {r : Nat → State} {c : Collaborator} {i : Instr} {n : Nat} (hf : (r n).faulted = none)
    (h : TakenAt r c i n) : ∃ e, step (r n) = exec i ((r n).setEnv e) := by
  obtain ⟨ht, o, ho, hd, hh⟩ := h
  have ho' : ((r n).setEnv (r n).env.nextAgent.2).env.offerOf c = some o := by
    rw [← ho]
    simp [Env.offerOf]
  refine ⟨(r n).env.nextAgent.2.takeOffer c, ?_⟩
  have ht : (r n).env.nextAgent.1 = .offer c := ht
  rw [step, stepMachine, unlessFaulted_of_none hf, ht]
  simp only [stepAgent, stepOffer, ho', hd, State.setEnv_framer, hh]
  rfl

/-! ## No run breaks a duty whose breach is a fault -/

theorem IsRun.deliversBetweenScans {r : Nat → State} (h : IsRun r) : DeliversBetweenScans r := by
  intro c buf n ht
  obtain ⟨e, he⟩ := step_of_takenAt (h.not_faulted n) ht
  obtain ⟨t, e', hs, hr⟩ := h.next n
  have hn := h.not_faulted (n + 1)
  rw [he, exec, execRxbuf_next] at hs
  rcases hs with ⟨-, ⟨ha, -⟩ | ⟨-, rfl⟩⟩
  · exact ha
  · rw [hr] at hn
    exact absurd hn (by simp)

theorem IsRun.reportsPacketsInFlight {r : Nat → State} (h : IsRun r) : ReportsPacketsInFlight r := by
  intro c n ht
  obtain ⟨e, he⟩ := step_of_takenAt (h.not_faulted n) ht
  obtain ⟨t, e', hs, hr⟩ := h.next n
  have hn := h.not_faulted (n + 1)
  rw [he, exec, execTxDone_next] at hs
  rcases hs with ⟨-, ⟨ha, -⟩ | ⟨-, rfl⟩⟩
  · exact ha
  · rw [hr] at hn
    exact absurd hn (by simp)

/-! ## A scan under way -/

/-- What a step leaves of a scan it does not end: it waits, with at most one `false` of `transmitReady` heard, or it
moves the index up by one. -/
def ScanGoesOn (s t : State) : Prop :=
  (t.framer.rlyIdx = s.framer.rlyIdx ∧ ∀ a, .transmitReady a ∈ t.log.calls.drop s.log.calls.length → a = false) ∨
  t.framer.rlyIdx.toNat = s.framer.rlyIdx.toNat + 1

theorem scanGoesOn_of_same {s t : State} (hi : t.framer.rlyIdx = s.framer.rlyIdx) (hc : t.log.calls = s.log.calls) :
    ScanGoesOn s t := .inl ⟨hi, by simp [hc]⟩

/-- The tail of a RELAY step that does not end the scan moves the index. -/
theorem advanceScan_moves {s : State} {stop : Bool} (h : (s.advanceScan stop).framer.rlyAct = true) :
    (s.advanceScan stop).framer.rlyIdx.toNat = s.framer.rlyIdx.toNat + 1 := by
  rcases advanceScan_cases s stop with ⟨-, e⟩ | ⟨-, hne, e⟩
  · rw [e] at h
    simp at h
  · rw [e]
    have key : ∀ x : BitVec 6, x ≠ 63#6 → (x + 1#6).toNat = x.toNat + 1 := by decide
    exact key _ hne

/-- An emitting step that does not end the scan hears `false` and waits, or moves the index. -/
theorem relayEmit_scan {b : Byte} {upd : Framer → Framer} {stop : Bool} {s t : State}
    (hu : (upd s.framer).rlyIdx = s.framer.rlyIdx) (h : relayEmit b upd stop s = .next t) (ht : t.framer.rlyAct = true) :
    (t.framer.rlyIdx = s.framer.rlyIdx ∧ t.log.calls = s.log.calls ++ [.transmitReady false]) ∨
    t.framer.rlyIdx.toNat = s.framer.rlyIdx.toNat + 1 := by
  rw [relayEmit_next] at h
  obtain ⟨e, ⟨-, rfl⟩ | ⟨-, rfl⟩⟩ := h
  · right
    rw [advanceScan_moves ht]
    simp [hu]
  · exact .inl ⟨rfl, rfl⟩

/-- The relay's turn in a scan that it does not end. -/
theorem stepRelay_scan {s t : State} (ha : s.framer.rlyAct = true) (h : stepRelay s = .next t)
    (ht : t.framer.rlyAct = true) :
    (t.framer.rlyIdx = s.framer.rlyIdx ∧ t.log.calls = s.log.calls ++ [.transmitReady false]) ∨
    t.framer.rlyIdx.toNat = s.framer.rlyIdx.toNat + 1 := by
  have hv : ∀ b, s.framer.visited = b → s.framer.visits b = true := fun b hb => visits_iff.2 ⟨ha, hb⟩
  rw [stepRelay, if_pos ha] at h
  unfold decodeRelay at h
  split at h
  · rename_i hm
    simp only [Bool.and_eq_true, beq_iff_eq] at hm
    rw [exec, execRelayMark3, relayMarker_next] at h
    rcases h with ⟨-, ⟨hn, -⟩ | ⟨-, -, rfl⟩⟩
    · exact absurd ⟨hv _ hm.2, hm.1⟩ hn
    · exact .inr (advanceScan_moves ht)
  split at h
  · rename_i hm
    simp only [Bool.and_eq_true, beq_iff_eq] at hm
    rw [exec, execRelayMark1, relayMarker_next] at h
    rcases h with ⟨-, ⟨hn, -⟩ | ⟨-, -, rfl⟩⟩
    · exact absurd ⟨hv _ hm.2, hm.1⟩ hn
    · exact .inr (advanceScan_moves ht)
  split at h
  · rename_i hm
    rw [exec, execRelayEox_next, hv _ hm] at h
    rcases h with ⟨-, ⟨hn, -⟩ | ⟨-, hx⟩⟩
    · exact absurd hn (by simp)
    · exact relayEmit_scan rfl hx ht
  · rename_i h3 h1 h7
    have hb : s.framer.relaysByte s.framer.visited = true := by
      cases hz : s.framer.budZero <;> simp_all [Framer.relaysByte]
    rw [exec, execRelayByte_next, hb] at h
    rcases h with ⟨-, ⟨hn, -⟩ | ⟨-, hx⟩⟩
    · exact absurd hn (by simp)
    · exact relayEmit_scan rfl hx ht

theorem parseFrame_scan {branch : Parser → ParseStep} {s t : State} (ha : s.framer.rlyAct = true)
    (h : parseFrame branch s = .next t) : ScanGoesOn s t := by
  rw [parseFrame_next] at h
  rcases h with ⟨-, ⟨-, rfl⟩ | ⟨hn, -⟩⟩
  · exact scanGoesOn_of_same rfl rfl
  · rw [ha] at hn
    cases hn

theorem encodeMapped_scan {cin : Nibble} {st d1 d2 : Byte} {s t : State} (ha : s.framer.rlyAct = true)
    (h : encodeMapped cin st d1 d2 s = .next t) : ScanGoesOn s t := by
  rw [encodeMapped_next] at h
  rcases h with ⟨-, ⟨-, rfl⟩ | ⟨hn, -⟩⟩
  · exact scanGoesOn_of_same rfl rfl
  · rw [ha] at hn
    cases hn

theorem encodeUnmapped_scan {s t : State} (h : encodeUnmapped s = .next t) : ScanGoesOn s t := by
  obtain ⟨-, rfl⟩ := encodeUnmapped_next.1 h
  exact scanGoesOn_of_same rfl rfl

theorem relayMarker_scan {marker : Byte} {n : Budget} {s t : State} (h : relayMarker marker n s = .next t)
    (ht : t.framer.rlyAct = true) : ScanGoesOn s t := by
  rw [relayMarker_next] at h
  rcases h with ⟨-, ⟨-, rfl⟩ | ⟨-, -, rfl⟩⟩
  · exact scanGoesOn_of_same rfl rfl
  · exact .inr (advanceScan_moves ht)

theorem relayEmit_scanGoesOn {b : Byte} {upd : Framer → Framer} {stop : Bool} {s t : State}
    (hu : (upd s.framer).rlyIdx = s.framer.rlyIdx) (h : relayEmit b upd stop s = .next t) (ht : t.framer.rlyAct = true) :
    ScanGoesOn s t := by
  rcases relayEmit_scan hu h ht with ⟨hi, hc⟩ | hm
  · exact .inl ⟨hi, by simp [hc]⟩
  · exact .inr hm

/-- Whatever instruction runs in a scan and does not end it, the scan goes on. -/
theorem exec_scan {i : Instr} {s t : State} (ha : s.framer.rlyAct = true) (h : exec i s = .next t)
    (ht : t.framer.rlyAct = true) : ScanGoesOn s t := by
  cases i with
  | parseData | parseNoteOff | parseNoteOn | parsePolyKp | parseCc | parsePc | parseChp | parsePb | parseSox | parseMtc
  | parseSpp | parseSs | parseUndef | parseTune | parseEox | parseRt =>
    simp only [exec, execParseData, execParseNoteOff, execParseNoteOn, execParsePolyKp, execParseCc, execParsePc, execParseChp,
      execParsePb, execParseSox, execParseMtc, execParseSpp, execParseSs, execParseUndef, execParseTune, execParseEox,
      execParseRt] at h
    exact parseFrame_scan ha h
  | encodeNoteOff | encodePb => exact encodeMapped_scan ha h
  | encodeNoteOn d1 d2 =>
    rw [exec, execEncodeNoteOn] at h
    split at h <;> exact encodeMapped_scan ha h
  | encodeNop07 | encodeNopAB | encodeNopCD | encodeNopF => exact encodeUnmapped_scan h
  | setFilter m =>
    rw [exec, execSetFilter, unlessFaulted_next, unlessRelayBusy_of_busy ha] at h
    obtain ⟨-, h⟩ := h
    cases h
    exact scanGoesOn_of_same rfl rfl
  | rxbuf buf =>
    rw [exec, execRxbuf_next] at h
    rcases h with ⟨-, ⟨hn, -⟩ | ⟨-, rfl⟩⟩
    · rw [ha] at hn
      cases hn
    · exact scanGoesOn_of_same rfl rfl
  | txDone =>
    rw [exec, execTxDone_next] at h
    rcases h with ⟨-, ⟨-, rfl⟩ | ⟨-, rfl⟩⟩ <;> exact scanGoesOn_of_same rfl rfl
  | reset =>
    rw [exec, execReset, unlessFaulted_next] at h
    obtain ⟨-, h⟩ := h
    cases h
    simp at ht
  | relayMark3 | relayMark1 => exact relayMarker_scan h ht
  | relayEox =>
    rw [exec, execRelayEox_next] at h
    rcases h with ⟨-, ⟨-, rfl⟩ | ⟨-, hx⟩⟩
    · exact scanGoesOn_of_same rfl rfl
    · exact relayEmit_scanGoesOn rfl hx ht
  | relayByte b =>
    rw [exec, execRelayByte_next] at h
    rcases h with ⟨-, ⟨-, rfl⟩ | ⟨-, hx⟩⟩
    · exact scanGoesOn_of_same rfl rfl
    · exact relayEmit_scanGoesOn rfl hx ht
  | txSend =>
    rw [exec, execTxSend_next] at h
    rcases h with ⟨-, ⟨-, rfl⟩ | ⟨hn, -⟩⟩
    · exact scanGoesOn_of_same rfl rfl
    · simp [Framer.sendEnabled, ha] at hn

/-- A step in a scan that it does not end. -/
theorem step_scan {s t : State} (ha : s.framer.rlyAct = true) (h : step s = .next t) (ht : t.framer.rlyAct = true) :
    ScanGoesOn s t := by
  obtain ⟨-, ⟨e, rfl⟩ | ⟨i, e, hx⟩⟩ := step_next h
  · exact scanGoesOn_of_same rfl rfl
  · exact exec_scan (s := s.setEnv e) ha hx ht

/-! ## Every scan ends -/

/-- A number that never falls, and rises again and again, passes every bound. -/
theorem exceeds_of_often {f : Nat → Nat} {N : Nat} (hm : ∀ n, N ≤ n → f n ≤ f (n + 1))
    (ho : ∀ n, N ≤ n → ∃ m, n ≤ m ∧ f m < f (m + 1)) (B : Nat) : ∃ n, N ≤ n ∧ B ≤ f n := by
  have mono : ∀ k n, N ≤ n → f n ≤ f (n + k) := by
    intro k
    induction k with
    | zero => intro n _; exact le_rfl
    | succ k ih => intro n hn; exact (ih n hn).trans (hm (n + k) (by omega))
  induction B with
  | zero => exact ⟨N, le_rfl, Nat.zero_le _⟩
  | succ B ih =>
    obtain ⟨n, hn, hb⟩ := ih
    obtain ⟨m, hnm, hlt⟩ := ho n hn
    have := mono (m - n) n hn
    rw [Nat.add_sub_cancel' hnm] at this
    exact ⟨m + 1, by omega, by omega⟩

/-- 60_exceptions.md R135, R148: with the serial transmitter's duty kept and RELAY scheduled again and again, a scan ends. -/
theorem IsRun.scan_ends {r : Nat → State} (h : IsRun r) (hready : ReadyInTheEnd r) (hturn : Often (TurnAt r .relay))
    (N : Nat) : ∃ n, N ≤ n ∧ (r n).framer.rlyAct = false := by
  by_contra hc
  have ha : ∀ n, N ≤ n → (r n).framer.rlyAct = true := by
    intro n hn
    by_contra hx
    exact hc ⟨n, hn, by simpa using hx⟩
  have hstep : ∀ n, N ≤ n → ScanGoesOn (r n) (r (n + 1)) := by
    intro n hn
    obtain ⟨t, e, hs, hr⟩ := h.next n
    have ht := ha (n + 1) (by omega)
    rw [hr] at ht ⊢
    exact step_scan (t := t) (ha n hn) hs ht
  -- a relay turn that does not move the index asks `transmitReady`
  have hask : ∀ n, N ≤ n → TurnAt r .relay n →
      (∃ a, CallAt r (.transmitReady a) n) ∨ (r n).framer.rlyIdx.toNat < (r (n + 1)).framer.rlyIdx.toNat := by
    intro n hn htn
    obtain ⟨t, e, hs, hr⟩ := h.next n
    have ht := ha (n + 1) (by omega)
    have htn : (r n).env.nextAgent.1 = .relay := htn
    rw [step, stepMachine, unlessFaulted_of_none (h.not_faulted n), htn] at hs
    rw [hr] at ht
    rcases stepRelay_scan (s := (r n).setEnv (r n).env.nextAgent.2) (ha n hn) hs ht with ⟨-, hcalls⟩ | hmv
    · left
      refine ⟨false, ?_⟩
      unfold CallAt
      rw [hr]
      simp [hcalls]
    · right
      rw [hr]
      have hmv : t.framer.rlyIdx.toNat = (r n).framer.rlyIdx.toNat + 1 := hmv
      simp only [State.setEnv_framer]
      omega
  -- so the index moves again and again
  have hmove : ∀ n, N ≤ n → ∃ m, n ≤ m ∧ (r m).framer.rlyIdx.toNat < (r (m + 1)).framer.rlyIdx.toNat := by
    intro n hn
    by_contra hno
    push Not at hno
    have hasked : Often (fun k => ∃ a, CallAt r (.transmitReady a) k) := by
      intro k
      obtain ⟨m, hm, htm⟩ := hturn (max n k)
      refine ⟨m, by omega, ?_⟩
      rcases hask m (by omega) htm with hq | hq
      · exact hq
      · exact absurd hq (by have := hno m (by omega); omega)
    obtain ⟨m, hm, hcall⟩ := hready hasked n
    rcases hstep m (by omega) with ⟨-, hf⟩ | hq
    · exact absurd (hf true hcall) (by simp)
    · have := hno m hm
      omega
  have hmono : ∀ n, N ≤ n → (r n).framer.rlyIdx.toNat ≤ (r (n + 1)).framer.rlyIdx.toNat := by
    intro n hn
    rcases hstep n hn with ⟨he, -⟩ | hq
    · rw [he]
    · omega
  obtain ⟨n, -, hb⟩ := exceeds_of_often (f := fun n => (r n).framer.rlyIdx.toNat) hmono hmove 64
  have := (r n).framer.rlyIdx.isLt
  omega

/-- 42_encoder.md R112, R113, 60_exceptions.md R148: with the USB transmitter's duty kept, a packet in flight is reported done or
forgotten. -/
theorem IsRun.flight_ends {r : Nat → State} (h : IsRun r) (hdone : DoneInTheEnd r) {n : Nat} {p : Packet}
    (hc : CallAt r (.trySend p .accepted) n) : ∃ m, n < m ∧ (r m).framer.txInfl = false := by
  obtain ⟨m, hm, ht⟩ := hdone n p hc
  refine ⟨m + 1, by omega, ?_⟩
  obtain ⟨t, e', hs, hr⟩ := h.next m
  rw [hr]
  rcases ht with ht | ⟨c, ht⟩
  · have hfl := h.reportsPacketsInFlight _ m ht
    obtain ⟨e, he⟩ := step_of_takenAt (h.not_faulted m) ht
    rw [he, exec, execTxDone_next] at hs
    rcases hs with ⟨-, ⟨-, rfl⟩ | ⟨hn, -⟩⟩
    · rfl
    · simp [hfl] at hn
  · obtain ⟨e, he⟩ := step_of_takenAt (h.not_faulted m) ht
    rw [he, exec, execReset, unlessFaulted_next] at hs
    obtain ⟨-, hs⟩ := hs
    cases hs
    rfl

end Sys2Proof.Machine
end

