-- ==== Sys2Proof/Laws/Encoding.lean ====
section
/-! SUPPORT. What decoding can do, said once: the fields of the words the encoder writes, the forms of a legal stimulus word
and the refusal of the others. -/

namespace Sys2Proof

open Sys2Proof.Machine

/-! ## Fields of the written words -/

/-- The fields of an ENCODE word. -/
theorem encodeWord_fields (n : Nibble) (d1 d2 : Byte) :
    (encodeWord n d1 d2).extractLsb' 28 4 = 1#4 ∧ (encodeWord n d1 d2).extractLsb' 20 8 = 0#8 ∧
      (encodeWord n d1 d2).extractLsb' 16 4 = n ∧ (encodeWord n d1 d2).extractLsb' 8 8 = d1 ∧
      (encodeWord n d1 d2).extractLsb' 0 8 = d2 := by
  unfold encodeWord
  refine ⟨?_, ?_, ?_, ?_, ?_⟩ <;>
    (apply BitVec.eq_of_getLsbD_eq
     intro i hi
     simp only [BitVec.getLsbD_extractLsb', BitVec.getLsbD_append]
     interval_cases i <;> simp [BitVec.getLsbD_eq_getElem])

/-- A mask that leaves the low 16 bits open does not see the data bytes of an ENCODE word. -/
theorem encodeWord_and_mask (n : Nibble) (d1 d2 : Byte) {m : Word} (h : m.extractLsb' 0 16 = 0#16) :
    encodeWord n d1 d2 &&& m = encodeWord n 0x00#8 0x00#8 &&& m := by
  apply BitVec.eq_of_getLsbD_eq
  intro i hi
  rw [BitVec.getLsbD_and, BitVec.getLsbD_and]
  by_cases hlow : i < 16
  · have hm := congrArg (fun x => x.getLsbD i) h
    have hm : m.getLsbD i = false := by simpa [hlow] using hm
    simp [hm]
  · have h8 : ¬ i < 8 := by omega
    have h16 : ¬ i - 8 < 8 := by omega
    congr 1
    unfold encodeWord
    simp only [BitVec.getLsbD_append, h8, h16, if_false]

/-- Every byte's PARSE word decodes to the byte's class. -/
theorem decodeStimulus_parseWord (b : Byte) (buf : Buffer) :
    decodeStimulus (parseWord b) buf = .ok (decodeParse b) := by
  have h1 : (parseWord b).extractLsb' 28 4 = 0#4 := by unfold parseWord; revert b; decide
  have h2 : (parseWord b).extractLsb' 8 20 = 0#20 := by unfold parseWord; revert b; decide
  have h3 : (parseWord b).extractLsb' 0 8 = b := by unfold parseWord; revert b; decide
  simp [decodeStimulus, h1, h2, h3]

/-- Every ENCODE word decodes to its nibble's class. -/
theorem decodeStimulus_encodeWord (n : Nibble) (d1 d2 : Byte) (buf : Buffer) :
    decodeStimulus (encodeWord n d1 d2) buf = .ok (decodeEncode n d1 d2) := by
  obtain ⟨h1, h2, h3, h4, h5⟩ := encodeWord_fields n d1 d2
  simp [decodeStimulus, h1, h2, h3, h4, h5]

/-- Every SETFILTER word decodes to its mask. -/
theorem decodeStimulus_setFilterWord (m : Nibble) (buf : Buffer) :
    decodeStimulus (setFilterWord m) buf = .ok (.setFilter m) := by
  have h1 : (setFilterWord m).extractLsb' 28 4 = 2#4 := by unfold setFilterWord; revert m; decide
  have h2 : (setFilterWord m).extractLsb' 4 24 = 0#24 := by unfold setFilterWord; revert m; decide
  have h3 : (setFilterWord m).extractLsb' 0 4 = m := by unfold setFilterWord; revert m; decide
  simp [decodeStimulus, h1, h2, h3]

/-! ## Legal words -/

/-- A word is the concatenation of its PARSE fields, of its ENCODE fields, of its SETFILTER fields, of its OP and the
rest. -/
theorem word_fields (w : Word) :
    w = w.extractLsb' 28 4 ++ w.extractLsb' 8 20 ++ w.extractLsb' 0 8 ∧
    w = w.extractLsb' 28 4 ++ w.extractLsb' 20 8 ++ w.extractLsb' 16 4 ++ w.extractLsb' 8 8 ++ w.extractLsb' 0 8 ∧
    w = w.extractLsb' 28 4 ++ w.extractLsb' 4 24 ++ w.extractLsb' 0 4 ∧
    w = w.extractLsb' 28 4 ++ w.extractLsb' 0 28 := by
  refine ⟨?_, ?_, ?_, ?_⟩ <;>
    (apply BitVec.eq_of_getLsbD_eq
     intro i hi
     simp only [BitVec.getLsbD_extractLsb', BitVec.getLsbD_append]
     interval_cases i <;> simp)

/-- The words R66 spells. -/
inductive SpelledWord : Word → Prop where
  | parse (b : Byte) : SpelledWord (parseWord b)
  | encode (n : Nibble) (d1 d2 : Byte) : SpelledWord (encodeWord n d1 d2)
  | setFilter (m : Nibble) : SpelledWord (setFilterWord m)
  | rxbuf : SpelledWord 0x30000000#32
  | txDone : SpelledWord 0x40000000#32
  | reset : SpelledWord 0x50000000#32

/-- A word that is not illegal is spelled by R66. -/
theorem spelled_of_legal {w : Word} (h : ¬ IllegalWord w) : SpelledWord w := by
  unfold IllegalWord at h
  push Not at h
  obtain ⟨h1, h2, h3, h4, h5⟩ := h
  have ops : ∀ o : BitVec 4, o.toNat < 6 → o = 0 ∨ o = 1 ∨ o = 2 ∨ o = 3 ∨ o = 4 ∨ o = 5 := by decide
  obtain ⟨f1, f2, f3, f4⟩ := word_fields w
  rcases ops _ h1 with h | h | h | h | h | h
  · rw [f1, h, h2 h]; exact .parse _
  · rw [f2, h, h3 h]; exact .encode _ _ _
  · rw [f3, h, h4 h]; exact .setFilter _
  · rw [f4, h, h5 (.inl h)]; exact .rxbuf
  · rw [f4, h, h5 (.inr (.inl h))]; exact .txDone
  · rw [f4, h, h5 (.inr (.inr h))]; exact .reset

/-- An illegal word is refused, naming it. -/
theorem decodeStimulus_illegal {w : Word} (h : IllegalWord w) (buf : Buffer) :
    decodeStimulus w buf = .error (.illegalStimulus w) := by
  have ops : ∀ o : BitVec 4, 6 ≤ o.toNat →
      o ≠ 0#4 ∧ o ≠ 1#4 ∧ o ≠ 2#4 ∧ o ≠ 3#4 ∧ o ≠ 4#4 ∧ o ≠ 5#4 := by decide
  unfold decodeStimulus
  rcases h with h | ⟨h, k⟩ | ⟨h, k⟩ | ⟨h, k⟩ | ⟨h | h | h, k⟩
  · obtain ⟨a0, a1, a2, a3, a4, a5⟩ := ops _ h
    simp only [a0, a1, a2, a3, a4, a5, if_false]
  all_goals simp [h, k]

/-- A spelled word decodes. -/
theorem decodeStimulus_spelled {w : Word} (h : SpelledWord w) (buf : Buffer) :
    ∃ i, decodeStimulus w buf = .ok i := by
  cases h with
  | parse b => exact ⟨_, decodeStimulus_parseWord b buf⟩
  | encode n d1 d2 => exact ⟨_, decodeStimulus_encodeWord n d1 d2 buf⟩
  | setFilter m => exact ⟨_, decodeStimulus_setFilterWord m buf⟩
  | rxbuf => exact ⟨.rxbuf buf, rfl⟩
  | txDone => exact ⟨.txDone, rfl⟩
  | reset => exact ⟨.reset, rfl⟩

end Sys2Proof
end

