-- ==== Sys2Proof/Laws/ParserInv.lean ====
section
/-! SUPPORT. The class branches as cases of Dispatch (41_parser.md R78), and what each procedure does in a state that meets
10_state.md R25: it answers, and it keeps R25. -/

namespace Sys2Proof.Machine

theorem isSx_iff (p : Parser) : p.isSx = true ↔ p.sxs = .active := by simp [Parser.isSx]

/-! ## The branches are Dispatch's -/

theorem dispatchByte_realTime (x : BitVec 3) :
    dispatchByte (realTimeByte x) = realTimeBranch (realTimeByte x) := by
  funext p
  have h : 0xF8 ≤ (realTimeByte x).toNat := by clear p; revert x; decide
  simp [dispatchByte, h]

theorem dispatchByte_data (d : BitVec 7) : dispatchByte (dataByte d) = dataBranch (dataByte d) := by
  funext p
  have h : (dataByte d).toNat < 0x80 ∧ dataByte d ≠ 0xF7#8 ∧ dataByte d ≠ 0xF0#8 := by clear p; revert d; decide
  have h1 : ¬ 0xF8 ≤ (dataByte d).toNat := by omega
  have h2 : ¬ 0x80 ≤ (dataByte d).toNat := by omega
  unfold dispatchByte dataBranch
  by_cases hx : p.isSx = true <;> simp [h1, h2, h.2.1, h.2.2, hx]

/-- A status byte that is not 0xF0, 0xF7 or real-time. -/
theorem dispatchByte_status {b : Byte} (h : 0x80 ≤ b.toNat) (h8 : b.toNat < 0xF8) (h0 : b ≠ 0xF0#8) (h7 : b ≠ 0xF7#8) :
    dispatchByte b = statusBranch b := by
  funext p
  have h1 : ¬ 0xF8 ≤ b.toNat := by omega
  unfold dispatchByte statusBranch
  simp [h1, h, h0, h7]

/-- A channel-voice status byte. -/
theorem dispatchByte_voice (n c : Nibble) (h : 8 ≤ n.toNat ∧ n.toNat < 15) :
    dispatchByte (voiceByte n c) = statusBranch (voiceByte n c) := by
  have hb : 0x80 ≤ (voiceByte n c).toNat ∧ (voiceByte n c).toNat < 0xF8 ∧ voiceByte n c ≠ 0xF0#8 ∧
      voiceByte n c ≠ 0xF7#8 := by revert n c; decide
  exact dispatchByte_status hb.1 hb.2.1 hb.2.2.1 hb.2.2.2

theorem dispatchByte_sox : dispatchByte 0xF0#8 = soxBranch := by
  funext p
  simp [dispatchByte, soxBranch]

theorem dispatchByte_eox : dispatchByte 0xF7#8 = eoxBranch := by
  funext p
  unfold dispatchByte eoxBranch
  by_cases h : p.isSx = true <;> simp [h]

/-! ## In a state that meets R25 every procedure answers, and keeps R25 -/

/-- The procedure answers, and the unit after it meets R25. -/
def AnswersInv (x : ParseStep) : Prop := ∃ r q, x = .ok (r, q) ∧ q.Inv

theorem startStatus_answersInv {b : Byte} {p : Parser} (h : 0x80 ≤ b.toNat) (h8 : b.toNat < 0xF8) (h0 : b ≠ 0xF0#8)
    (h7 : b ≠ 0xF7#8) (hs : p.sxs ≠ .active) (hf : p.sxf = false) : AnswersInv (startStatus b p) := by
  have hrs : b ≠ 0x00#8 ∧ (b = 0x00#8 ∨ (0x80 ≤ b.toNat ∧ b.toNat ≤ 0xEF) ∨ (0xF1 ≤ b.toNat ∧ b.toNat ≤ 0xF6)) := by
    clear hs hf p; revert b; decide
  obtain ⟨n, hn⟩ := lengthOf_status h
  by_cases h1 : n = 1#2
  · subst h1
    obtain ⟨c, hc⟩ := categoryOf_status h
    exact ⟨_, _, startStatus_one hn hc p, hrs.2, by simp, by simp [hs], by simp [hf]⟩
  · refine ⟨_, _, startStatus_long hn h1 p, hrs.2, fun _ => ⟨hrs.1, by simp, hn, ?_⟩, by simp [hs], by simp [hf]⟩
    rcases (lengthOf_ok hn).2 with rfl | rfl | rfl <;> simp_all

/-- The append to a message in progress. -/
theorem appendByte_answersInv {b : Byte} {p : Parser} (hi : p.Inv) (h : p.accN ≠ 0#2) : AnswersInv (appendByte b p) := by
  obtain ⟨i1, i2, i3, i4⟩ := hi
  have hs : p.sxs ≠ .active := fun e => h (i3 e).1
  have hf : p.sxf = false := by
    cases e : p.sxf
    · rfl
    · exact absurd (i4 e) hs
  obtain ⟨a1, a2, a3, a4⟩ := i2 h
  obtain ⟨c, hc⟩ := categoryOf_status (lengthOf_ok a3).1
  have hl : p.accN.toNat < 3 := by omega
  have e : p.accN = 1#2 ∨ p.accN = 2#2 := by
    have key : ∀ x : BitVec 2, x ≠ 0#2 → x.toNat < 3 → x = 1#2 ∨ x = 2#2 := by decide
    exact key _ h hl
  have h0 : (p.acc.set p.accN.toNat b hl)[0] = p.rs := by rcases e with e | e <;> simp [e, a2]
  unfold appendByte
  rw [writeAcc_ok hl]
  by_cases hr : p.accN + 1#2 = p.req
  · simp only [hr, if_true, finish, h0, hc]
    exact ⟨_, _, rfl, i1, by simp, by simp [hs], by simp [hf]⟩
  · simp only [hr, if_false]
    have key : ∀ x y : BitVec 2, x.toNat < y.toNat → x + 1#2 ≠ y → (x + 1#2).toNat < y.toNat := by decide
    exact ⟨_, _, rfl, i1, fun _ => ⟨a1, h0, a3, key _ _ a4 hr⟩, by simp [hs], by simp [hf]⟩

theorem appendData_answersInv {b : Byte} {p : Parser} (hi : p.Inv) (hs : p.sxs ≠ .active) :
    AnswersInv (appendData b p) := by
  unfold appendData
  by_cases h : p.accN = 0#2
  · simp only [h, if_true]
    by_cases hr : p.rs = 0x00#8
    · simp only [hr, if_true]
      exact ⟨_, _, rfl, hi⟩
    · have hrs : 0x80 ≤ p.rs.toNat := by
        rcases hi.1 with k | k | k
        · exact absurd k hr
        · exact k.1
        · omega
      obtain ⟨n, hn⟩ := lengthOf_status hrs
      simp only [hr, if_false, hn]
      by_cases h1 : n = 1#2
      · simp only [h1, if_true]
        exact ⟨_, _, rfl, hi⟩
      · simp only [h1, if_false]
        refine appendByte_answersInv ⟨hi.1, fun _ => ⟨hr, by simp, hn, ?_⟩, fun e => absurd e hs, hi.2.2.2⟩ (by simp)
        rcases (lengthOf_ok hn).2 with rfl | rfl | rfl <;> simp_all
  · simp only [h, if_false]
    exact appendByte_answersInv hi h

theorem unterminated_answersInv {b : Byte} {p : Parser} (h : 0x80 ≤ b.toNat) (h8 : b.toNat < 0xF8) (h7 : b ≠ 0xF7#8) :
    AnswersInv (unterminated b p) := by
  unfold unterminated
  by_cases h0 : b = 0xF0#8
  · simp only [h0, if_true, startSysEx]
    exact ⟨_, _, rfl, .inl rfl, by simp, by simp, by simp⟩
  · simp only [h0, if_false]
    obtain ⟨r, q, e, hq⟩ :=
      startStatus_answersInv (p := { p with sxs := .errored, sxf := false }) h h8 h0 h7 (by simp) rfl
    rw [e]
    exact ⟨_, _, rfl, hq⟩

/-- Dispatch answers on every byte, and keeps R25. -/
theorem dispatchByte_answersInv (b : Byte) {p : Parser} (hi : p.Inv) : AnswersInv (dispatchByte b p) := by
  obtain ⟨i1, i2, i3, i4⟩ := id hi
  unfold dispatchByte
  by_cases h8 : 0xF8 ≤ b.toNat
  · rw [if_pos h8]
    exact ⟨_, _, rfl, hi⟩
  rw [if_neg h8]
  by_cases hx : p.isSx = true
  · rw [if_pos hx]
    have hs := (isSx_iff p).1 hx
    by_cases h7 : b = 0xF7#8
    · rw [if_pos h7, eoxBranch, if_pos hx]
      exact ⟨_, _, rfl, i1, i2, by simp, by simp⟩
    rw [if_neg h7]
    by_cases h : 0x80 ≤ b.toNat
    · rw [if_pos h]
      exact unterminated_answersInv h (by omega) h7
    · rw [if_neg h, dataBranch, if_pos hx]
      exact ⟨_, _, rfl, i1, i2, i3, by simp⟩
  · rw [if_neg hx]
    have hs : p.sxs ≠ .active := fun e => hx ((isSx_iff p).2 e)
    have hf : p.sxf = false := by
      cases e : p.sxf
      · rfl
      · exact absurd (i4 e) hs
    by_cases h0 : b = 0xF0#8
    · rw [if_pos h0]
      exact ⟨_, _, rfl, .inl rfl, by simp, by simp, by simp⟩
    rw [if_neg h0]
    by_cases h7 : b = 0xF7#8
    · rw [if_pos h7]
      exact ⟨_, _, rfl, hi⟩
    rw [if_neg h7]
    by_cases h : 0x80 ≤ b.toNat
    · rw [if_pos h]
      exact startStatus_answersInv h (by omega) h0 h7 hs hf
    · rw [if_neg h]
      exact appendData_answersInv hi hs

end Sys2Proof.Machine
end

