-- ==== Sys2Proof/Laws/PerInstr.lean ====
section
/-! SUPPORT. A fact about every instruction as syntax, one lemma per constructor: its words fit its row of opcode_table.json. -/

namespace Sys2Proof.Laws.EncodeMatchesTable

open Sys2Proof

/-- A fetched form has the row's kind (a 32-bit word, a byte, or no bits) and the row's fixed bits. -/
def fits (r : OpRow) : Fetched → Bool
  | .stimulus w _ => r.bits == 32 && r.covers w
  | .relay b => r.bits == 8 && r.covers (b.setWidth 32)
  | .handOff => r.bits == 0

/-- What an instruction is encoded as fits its row. -/
def Statement (i : Instr) : Prop := fits i.row (encode i) = true

/-- An ENCODE word fits a row whose mask leaves the data bytes open, if the word of zero data bytes does. -/
theorem fits_encodeWord {r : OpRow} {n : Nibble} (hb : r.bits = 32) (hm : r.mask.extractLsb' 0 16 = 0#16)
    (h0 : r.covers (encodeWord n 0x00#8 0x00#8) = true) (d1 d2 : Byte) :
    fits r (plainStimulus (encodeWord n d1 d2)) = true := by
  unfold OpRow.covers at h0
  simp only [fits, plainStimulus, hb, OpRow.covers, encodeWord_and_mask n d1 d2 hm, h0, BEq.rfl, Bool.and_self]

theorem parseData (d : BitVec 7) : Statement (.parseData d) := by unfold Statement; revert d; decide
theorem parseNoteOff (c : BitVec 4) : Statement (.parseNoteOff c) := by unfold Statement; revert c; decide
theorem parseNoteOn (c : BitVec 4) : Statement (.parseNoteOn c) := by unfold Statement; revert c; decide
theorem parsePolyKp (c : BitVec 4) : Statement (.parsePolyKp c) := by unfold Statement; revert c; decide
theorem parseCc (c : BitVec 4) : Statement (.parseCc c) := by unfold Statement; revert c; decide
theorem parsePc (c : BitVec 4) : Statement (.parsePc c) := by unfold Statement; revert c; decide
theorem parseChp (c : BitVec 4) : Statement (.parseChp c) := by unfold Statement; revert c; decide
theorem parsePb (c : BitVec 4) : Statement (.parsePb c) := by unfold Statement; revert c; decide
theorem parseSox : Statement .parseSox := by unfold Statement; decide
theorem parseMtc : Statement .parseMtc := by unfold Statement; decide
theorem parseSpp : Statement .parseSpp := by unfold Statement; decide
theorem parseSs : Statement .parseSs := by unfold Statement; decide
theorem parseUndef (x : BitVec 1) : Statement (.parseUndef x) := by unfold Statement; revert x; decide
theorem parseTune : Statement .parseTune := by unfold Statement; decide
theorem parseEox : Statement .parseEox := by unfold Statement; decide
theorem parseRt (x : BitVec 3) : Statement (.parseRt x) := by unfold Statement; revert x; decide
theorem encodeNoteOff (d1 d2 : Byte) : Statement (.encodeNoteOff d1 d2) :=
  fits_encodeWord (r := (Instr.encodeNoteOff 0x00#8 0x00#8).row) rfl (by decide) (by decide) d1 d2
theorem encodeNoteOn (d1 d2 : Byte) : Statement (.encodeNoteOn d1 d2) :=
  fits_encodeWord (r := (Instr.encodeNoteOn 0x00#8 0x00#8).row) rfl (by decide) (by decide) d1 d2
theorem encodePb (d1 d2 : Byte) : Statement (.encodePb d1 d2) :=
  fits_encodeWord (r := (Instr.encodePb 0x00#8 0x00#8).row) rfl (by decide) (by decide) d1 d2
theorem encodeNop07 (n : BitVec 3) (d1 d2 : Byte) : Statement (.encodeNop07 n d1 d2) :=
  fits_encodeWord (r := (Instr.encodeNop07 0#3 0x00#8 0x00#8).row) rfl (by decide)
    (by clear d1 d2; revert n; decide) d1 d2
theorem encodeNopAB (n : BitVec 1) (d1 d2 : Byte) : Statement (.encodeNopAB n d1 d2) :=
  fits_encodeWord (r := (Instr.encodeNopAB 0#1 0x00#8 0x00#8).row) rfl (by decide)
    (by clear d1 d2; revert n; decide) d1 d2
theorem encodeNopCD (n : BitVec 1) (d1 d2 : Byte) : Statement (.encodeNopCD n d1 d2) :=
  fits_encodeWord (r := (Instr.encodeNopCD 0#1 0x00#8 0x00#8).row) rfl (by decide)
    (by clear d1 d2; revert n; decide) d1 d2
theorem encodeNopF (d1 d2 : Byte) : Statement (.encodeNopF d1 d2) :=
  fits_encodeWord (r := (Instr.encodeNopF 0x00#8 0x00#8).row) rfl (by decide) (by decide) d1 d2
theorem setFilter (mask : Nibble) : Statement (.setFilter mask) := by unfold Statement; revert mask; decide
theorem rxbuf (buf : Buffer) : Statement (.rxbuf buf) := by
  have h : (Instr.rxbuf zeroBuffer).row.covers 0x30000000#32 = true := by decide
  exact h
theorem txDone : Statement .txDone := by unfold Statement; decide
theorem reset : Statement .reset := by unfold Statement; decide
theorem relayMark3 : Statement .relayMark3 := by unfold Statement; decide
theorem relayMark1 : Statement .relayMark1 := by unfold Statement; decide
theorem relayEox : Statement .relayEox := by unfold Statement; decide
theorem relayByte (b : Byte) : Statement (.relayByte b) := by unfold Statement; revert b; decide
theorem txSend : Statement .txSend := by unfold Statement; decide

end Sys2Proof.Laws.EncodeMatchesTable
end

