-- ==== Sys2Proof/Tests/Slice0.lean ====
section
/-! SUPPORT. The model's own tests: ill-formed terms, words written out bit by bit from 30_encoding.md R66, one-step tests whose
expected values are those of 95_test_vectors.md (named at each), and, for every statement with hypotheses, a concrete
state and operands that meet them together. -/

namespace Sys2Proof.Tests

open Sys2Proof Sys2Proof.Machine

/-! ## Small states and readings -/

/-- The reset state with another Parser unit. -/
def withParser (p : Parser) : State := { State.reset with parser := p }

/-- The reset state with another Framer unit. -/
def withFramer (f : Framer) : State := { State.reset with framer := f }

/-- A parser with a message in progress. -/
def midMessage (rs d1 : Byte) (n req : BitVec 2) : Parser :=
  { Parser.reset with rs := rs, acc := #v[rs, d1, 0x00#8], accN := n, req := req }

/-- A parser in an open SysEx, the next data byte being the first. -/
def openSysEx : Parser := { Parser.reset with sxs := .active, sxf := true }

/-- A parser at a message boundary with a running status. -/
def running (rs : Byte) : Parser := { Parser.reset with rs := rs }

/-- A relay scan at index `i` of a buffer that holds `b` there, and zeros elsewhere. -/
def scanning (i : BitVec 6) (b : Byte) (bud : Budget) : Framer :=
  { Framer.reset with
    rxbuf := zeroBuffer.set i.toNat b i.isLt, rlyAct := true, rlyIdx := i, bud := bud, bufUf := decide (bud.toInt < 0) }

/-- The same, with the next answer of `transmitReady` listed. -/
def scanState (i : BitVec 6) (b : Byte) (bud : Budget) (ready : Bool) : State :=
  { withFramer (scanning i b bud) with env := { Env.reset with readyAnswers := [ready] } }

/-- A framer with a full packet slot. -/
def fullSlot : Framer := { Framer.reset with txs := true, txp := #v[0x09#8, 0x90#8, 0x3C#8, 0x7F#8] }

/-- A stimulus on offer by the collaborator whose turn it is. -/
def offering (c : Collaborator) (w : Word) (s : State) : State :=
  { s with env := { s.env with offers := [{ source := c, word := w, buf := zeroBuffer }], schedule := [.offer c] } }

def wordOf (o : StepOutcome) : Option Word :=
  match o with
  | .next s => s.log.results.getLast?.map resultWord
  | .fault _ | .refused _ => none

def parserOf (o : StepOutcome) : Option Parser :=
  match o with
  | .next s => some s.parser
  | .fault _ | .refused _ => none

def framerOf (o : StepOutcome) : Option Framer :=
  match o with
  | .next s => some s.framer
  | .fault _ | .refused _ => none

def callsOf (o : StepOutcome) : Option (List Call) :=
  match o with
  | .next s => some s.log.calls
  | .fault _ | .refused _ => none

def faultOf (o : StepOutcome) : Option Fault :=
  match o with
  | .next s => s.faulted
  | .fault f => some f
  | .refused _ => none

def refusalOf (o : StepOutcome) : Option Refusal :=
  match o with
  | .refused r => some r
  | .next _ | .fault _ => none

/-! ## Ill-formed terms -/

theorem test_wf_relayByte_eox : (Instr.relayByte 0xF7#8).wf = false := by decide
theorem test_wf_relayByte_other : (Instr.relayByte 0xF6#8).wf = true ∧ (Instr.relayByte 0x04#8).wf = true := by decide

/-! ## Words written out bit by bit: OP, reserved bits, operands -/

/-- What the decoder reads from a word with no buffer of its own. -/
def reads (w : Word) (i : Instr) : Prop := decodeStimulus w zeroBuffer = .ok i

theorem test_decode_parseData : reads 0b0000_00000000000000000000_01111111#32 (.parseData 0x7F#7) := by unfold reads; decide
theorem test_decode_parseNoteOff : reads 0b0000_00000000000000000000_10000101#32 (.parseNoteOff 5#4) := by unfold reads; decide
theorem test_decode_parseNoteOn : reads 0b0000_00000000000000000000_10010000#32 (.parseNoteOn 0#4) := by unfold reads; decide
theorem test_decode_parsePolyKp : reads 0b0000_00000000000000000000_10100001#32 (.parsePolyKp 1#4) := by unfold reads; decide
theorem test_decode_parseCc : reads 0b0000_00000000000000000000_10111111#32 (.parseCc 15#4) := by unfold reads; decide
theorem test_decode_parsePc : reads 0b0000_00000000000000000000_11000101#32 (.parsePc 5#4) := by unfold reads; decide
theorem test_decode_parseChp : reads 0b0000_00000000000000000000_11010010#32 (.parseChp 2#4) := by unfold reads; decide
theorem test_decode_parsePb : reads 0b0000_00000000000000000000_11101000#32 (.parsePb 8#4) := by unfold reads; decide
theorem test_decode_parseSox : reads 0b0000_00000000000000000000_11110000#32 .parseSox := by unfold reads; decide
theorem test_decode_parseMtc : reads 0b0000_00000000000000000000_11110001#32 .parseMtc := by unfold reads; decide
theorem test_decode_parseSpp : reads 0b0000_00000000000000000000_11110010#32 .parseSpp := by unfold reads; decide
theorem test_decode_parseSs : reads 0b0000_00000000000000000000_11110011#32 .parseSs := by unfold reads; decide
theorem test_decode_parseUndef : reads 0b0000_00000000000000000000_11110101#32 (.parseUndef 1#1) := by unfold reads; decide
theorem test_decode_parseTune : reads 0b0000_00000000000000000000_11110110#32 .parseTune := by unfold reads; decide
theorem test_decode_parseEox : reads 0b0000_00000000000000000000_11110111#32 .parseEox := by unfold reads; decide
theorem test_decode_parseRt : reads 0b0000_00000000000000000000_11111110#32 (.parseRt 6#3) := by unfold reads; decide
theorem test_decode_encodeNoteOff : reads 0b0001_00000000_1000_00111100_01000000#32 (.encodeNoteOff 0x3C#8 0x40#8) := by
  unfold reads; decide
theorem test_decode_encodeNoteOn : reads 0b0001_00000000_1001_00111100_01111111#32 (.encodeNoteOn 0x3C#8 0x7F#8) := by
  unfold reads; decide
theorem test_decode_encodePb : reads 0b0001_00000000_1110_00000000_01000000#32 (.encodePb 0x00#8 0x40#8) := by
  unfold reads; decide
theorem test_decode_encodeNop07 : reads 0b0001_00000000_0101_00000001_10000000#32 (.encodeNop07 5#3 0x01#8 0x80#8) := by
  unfold reads; decide
theorem test_decode_encodeNopAB : reads 0b0001_00000000_1011_00000111_01100100#32 (.encodeNopAB 1#1 0x07#8 0x64#8) := by
  unfold reads; decide
theorem test_decode_encodeNopCD : reads 0b0001_00000000_1100_00000001_00000010#32 (.encodeNopCD 0#1 0x01#8 0x02#8) := by
  unfold reads; decide
theorem test_decode_encodeNopF : reads 0b0001_00000000_1111_11111111_11111111#32 (.encodeNopF 0xFF#8 0xFF#8) := by
  unfold reads; decide
theorem test_decode_setFilter : reads 0b0010_000000000000000000000000_1110#32 (.setFilter 0xE#4) := by unfold reads; decide
theorem test_decode_rxbuf : reads 0b0011_0000000000000000000000000000#32 (.rxbuf zeroBuffer) := by unfold reads; decide
theorem test_decode_txDone : reads 0b0100_0000000000000000000000000000#32 .txDone := by unfold reads; decide
theorem test_decode_reset : reads 0b0101_0000000000000000000000000000#32 .reset := by unfold reads; decide

/-- The relay bytes at budget 0 and at another budget (RV4: the second 0x04 is data). -/
theorem test_decode_relay :
    decode true (.relay 0b00000100#8) = .ok .relayMark3 ∧ decode true (.relay 0b00000101#8) = .ok .relayMark1 ∧
    decode false (.relay 0b00000100#8) = .ok (.relayByte 0x04#8) ∧ decode true (.relay 0b11110111#8) = .ok .relayEox ∧
    decode false (.relay 0b11110111#8) = .ok .relayEox ∧ decode true (.relay 0b00000000#8) = .ok (.relayByte 0x00#8) := by
  decide

theorem test_decode_txSend : decode true .handOff = .ok .txSend := by decide

/-- Reserved bits 8, 20, 4 and 0, and the reserved OPs 6 and 15 ("Stimulus decoding"). -/
theorem test_decode_refuses :
    decodeTableWord 32 0x00000190 = none ∧ decodeTableWord 32 0x10193C7F = none ∧ decodeTableWord 32 0x20000010 = none ∧
    decodeTableWord 32 0x30000001 = none ∧ decodeTableWord 32 0x60000000 = none ∧ decodeTableWord 32 0xF0000000 = none := by
  decide

/-- The four-constructor rows of ENCODE.NOP do not overlap the mapped nibbles, or each other. -/
theorem test_rows_disjoint :
    stimulusRows.Pairwise (fun a b => (a.pattern ^^^ b.pattern) &&& a.mask &&& b.mask ≠ 0#32) := by
  decide

/-! ## One step per instruction -/

/-- V16: the first SysEx data byte. -/
theorem test_parseData_sysEx : wordOf (exec (.parseData 0x7F#7) (withParser openSysEx)) = some 0x00007F86#32 := by decide
/-- W2: the last data byte of a note-on. -/
theorem test_parseData_completes :
    wordOf (exec (.parseData 0x7F#7) (withParser (midMessage 0x90#8 0x3C#8 2#2 3#2))) = some 0x7F3C901D#32 := by decide
/-- V23: a new status drops the partial message. -/
theorem test_parseNoteOff_drops :
    (parserOf (exec (.parseNoteOff 0#4) (withParser (midMessage 0x90#8 0x3C#8 2#2 3#2)))).map (fun p => (p.rs, p.accN, p.req))
      = some (0x80#8, 1#2, 3#2) := by decide
/-- W6: a status byte inside an open SysEx. -/
theorem test_parseNoteOn_unterminated :
    wordOf (exec (.parseNoteOn 0#4) (withParser openSysEx)) = some 0x00009007#32 ∧
    (parserOf (exec (.parseNoteOn 0#4) (withParser openSysEx))).map (fun p => (p.sxs, p.rs, p.accN))
      = some (.errored, 0x90#8, 1#2) := by decide
/-- V6. -/
theorem test_parsePolyKp :
    (parserOf (exec (.parsePolyKp 1#4) State.reset)).map (fun p => (p.rs, p.accN, p.req)) = some (0xA1#8, 1#2, 3#2) := by decide
/-- V7. -/
theorem test_parseCc :
    (parserOf (exec (.parseCc 0#4) State.reset)).map (fun p => (p.rs, p.accN, p.req)) = some (0xB0#8, 1#2, 3#2) := by decide
/-- V8. -/
theorem test_parsePc :
    (parserOf (exec (.parsePc 5#4) State.reset)).map (fun p => (p.rs, p.accN, p.req)) = some (0xC5#8, 1#2, 2#2) := by decide
/-- V9. -/
theorem test_parseChp :
    (parserOf (exec (.parseChp 2#4) State.reset)).map (fun p => (p.rs, p.accN, p.req)) = some (0xD2#8, 1#2, 2#2) := by decide
/-- V10. -/
theorem test_parsePb :
    (parserOf (exec (.parsePb 0#4) State.reset)).map (fun p => (p.rs, p.accN, p.req)) = some (0xE0#8, 1#2, 3#2) := by decide
/-- 41_parser.md R87, the example. -/
theorem test_parseSox : wordOf (exec .parseSox State.reset) = some 0x0000F082#32 := by decide
/-- V20: a second 0xF0 opens a new SysEx. -/
theorem test_parseSox_active :
    wordOf (exec .parseSox (withParser openSysEx)) = some 0x0000F007#32 ∧
    (parserOf (exec .parseSox (withParser openSysEx))).map (fun p => (p.sxs, p.sxf)) = some (.active, true) := by decide
/-- V11. -/
theorem test_parseMtc :
    (parserOf (exec .parseMtc State.reset)).map (fun p => (p.rs, p.accN, p.req)) = some (0xF1#8, 1#2, 2#2) := by decide
/-- V12. -/
theorem test_parseSpp :
    (parserOf (exec .parseSpp State.reset)).map (fun p => (p.rs, p.accN, p.req)) = some (0xF2#8, 1#2, 3#2) := by decide
/-- V13. -/
theorem test_parseSs :
    (parserOf (exec .parseSs State.reset)).map (fun p => (p.rs, p.accN, p.req)) = some (0xF3#8, 1#2, 2#2) := by decide
/-- V14: both bytes of the class. -/
theorem test_parseUndef :
    wordOf (exec (.parseUndef 0#1) State.reset) = some 0x0000F425#32 ∧
    wordOf (exec (.parseUndef 1#1) State.reset) = some 0x0000F525#32 := by decide
/-- W1, V15. -/
theorem test_parseTune : wordOf (exec .parseTune State.reset) = some 0x0000F625#32 := by decide
/-- V21: the completion is not returned, its register effects stay. -/
theorem test_parseTune_unterminated :
    wordOf (exec .parseTune (withParser openSysEx)) = some 0x0000F607#32 ∧
    (parserOf (exec .parseTune (withParser openSysEx))).map (fun p => (p.sxs, p.rs, p.lastCat, p.accN))
      = some (.errored, 0xF6#8, 0x2#4, 0#2) := by decide
/-- W5: the end of a SysEx. -/
theorem test_parseEox_closes :
    wordOf (exec .parseEox (withParser openSysEx)) = some 0x0000F78A#32 ∧
    (parserOf (exec .parseEox (withParser openSysEx))).map (fun p => (p.sxs, p.sxf, p.lastCat))
      = some (.inactive, false, 0x8#4) := by decide
/-- V17: a stray 0xF7 in the middle of a message. -/
theorem test_parseEox_stray :
    wordOf (exec .parseEox (withParser (midMessage 0x90#8 0x3C#8 2#2 3#2))) = some 0#32 ∧
    (parserOf (exec .parseEox (withParser (midMessage 0x90#8 0x3C#8 2#2 3#2)))).map (fun p => (p.rs, p.accN))
      = some (0x90#8, 2#2) := by decide
/-- 41_parser.md R85, the example: in the middle of a message. -/
theorem test_parseRt :
    wordOf (exec (.parseRt 0#3) (withParser (midMessage 0x90#8 0x3C#8 2#2 3#2))) = some 0x0000F845#32 ∧
    (parserOf (exec (.parseRt 0#3) (withParser (midMessage 0x90#8 0x3C#8 2#2 3#2)))).map (fun p => p.accN) = some 2#2 := by
  decide
/-- FV5: a real-time byte commits the filter and is hidden by it. -/
theorem test_parseRt_commits :
    wordOf (exec (.parseRt 0#3) (withParser { Parser.reset with fltPend := 0x1#4 })) = some 0#32 ∧
    (parserOf (exec (.parseRt 0#3) (withParser { Parser.reset with fltPend := 0x1#4 }))).map (fun p => p.flt) = some 0x1#4 := by
  decide
/-- EV1. -/
theorem test_encodeNoteOff :
    (framerOf (exec (.encodeNoteOff 0x3C#8 0x40#8) State.reset)).map (fun f => (f.txs, f.txp.toList))
      = some (true, [0x08#8, 0x80#8, 0x3C#8, 0x40#8]) := by decide
/-- W4: the velocity-0 rewrite. -/
theorem test_encodeNoteOn_zero :
    (framerOf (exec (.encodeNoteOn 0x3C#8 0x00#8) State.reset)).map (fun f => f.txp.toList)
      = some [0x08#8, 0x80#8, 0x3C#8, 0x00#8] := by decide
/-- EV4: 0x80 is not 0. -/
theorem test_encodeNoteOn_bit7 :
    (framerOf (exec (.encodeNoteOn 0x3C#8 0x80#8) State.reset)).map (fun f => f.txp.toList)
      = some [0x09#8, 0x90#8, 0x3C#8, 0x80#8] := by decide
/-- EV5: no rewrite for pitch-bend. -/
theorem test_encodePb :
    (framerOf (exec (.encodePb 0x7F#8 0x00#8) State.reset)).map (fun f => f.txp.toList)
      = some [0x0E#8, 0xE0#8, 0x7F#8, 0x00#8] := by decide
/-- EV6, and 42_encoder.md R110: a full slot does not hold it. -/
theorem test_encodeNop :
    framerOf (exec (.encodeNop07 0#3 0x00#8 0x00#8) (withFramer fullSlot)) = some fullSlot ∧
    framerOf (exec (.encodeNopAB 1#1 0x07#8 0x64#8) (withFramer fullSlot)) = some fullSlot ∧
    framerOf (exec (.encodeNopCD 0#1 0x01#8 0x02#8) (withFramer fullSlot)) = some fullSlot ∧
    framerOf (exec (.encodeNopF 0xFF#8 0xFF#8) (withFramer fullSlot)) = some fullSlot := by decide
/-- FV1: SETFILTER is staged. -/
theorem test_setFilter :
    (parserOf (exec (.setFilter 0xE#4) State.reset)).map (fun p => (p.fltPend, p.flt)) = some (0xE#4, 0xF#4) := by decide
/-- "Delivery during a scan". -/
theorem test_rxbuf_overrun : faultOf (exec (.rxbuf zeroBuffer) (withFramer (scanning 0#6 0x90#8 0#8))) = some .rxOverrun := by
  decide
/-- 43_relay.md R115, R124: the budget stays. -/
theorem test_rxbuf :
    (framerOf (exec (.rxbuf zeroBuffer) (withFramer { Framer.reset with bud := 2#8 }))).map (fun f => (f.rlyAct, f.rlyIdx, f.bud))
      = some (true, 0#6, 2#8) := by decide
/-- EV9. -/
theorem test_txDone_spurious : faultOf (exec .txDone State.reset) = some .txDoneSpurious := by decide
/-- 42_encoder.md R113: during a scan. -/
theorem test_txDone :
    (framerOf (exec .txDone (withFramer { scanning 3#6 0x90#8 0#8 with txInfl := true }))).map
      (fun f => (f.txInfl, f.rlyAct, f.rlyIdx)) = some (false, true, 3#6) := by decide
/-- XV4: a RESET abandons the scan and calls nothing. -/
theorem test_reset_scan :
    (framerOf (exec .reset (scanState 1#6 0x3C#8 255#8 false))).map (fun f => (f.rlyAct, f.bud, f.bufUf))
      = some (false, 0#8, false) ∧ callsOf (exec .reset (scanState 1#6 0x3C#8 255#8 false)) = some [] := by decide
/-- XV5. -/
theorem test_reset_faulted :
    faultOf (exec .reset { State.reset with faulted := some .txDoneSpurious }) = some .txDoneSpurious := by decide
/-- W7, step 1. -/
theorem test_relayMark3 :
    (framerOf (exec .relayMark3 (withFramer (scanning 0#6 0x04#8 0#8)))).map (fun f => (f.bud, f.rlyIdx)) = some (3#8, 1#6) ∧
    callsOf (exec .relayMark3 (withFramer (scanning 0#6 0x04#8 0#8))) = some [] := by decide
/-- RV2. -/
theorem test_relayMark1 :
    (framerOf (exec .relayMark1 (withFramer (scanning 0#6 0x05#8 0#8)))).map (fun f => (f.bud, f.rlyIdx)) = some (1#8, 1#6) := by
  decide
/-- RV7, the last byte: a negative budget returns to 0, the flag stays. -/
theorem test_relayEox :
    (framerOf (exec .relayEox (scanState 2#6 0xF7#8 128#8 true))).map (fun f => (f.bud, f.bufUf, f.rlyAct, f.rlyIdx))
      = some (0#8, true, false, 0#6) ∧
    callsOf (exec .relayEox (scanState 2#6 0xF7#8 128#8 true))
      = some [.transmitReady true, .transmitByte 0xF7#8, .requestNextBuffer] := by decide
/-- RV11: the first unmarked byte sets the flag. -/
theorem test_relayByte_underflow :
    (framerOf (exec (.relayByte 0x10#8) (scanState 0#6 0x10#8 0#8 true))).map (fun f => (f.bud, f.bufUf, f.rlyIdx))
      = some (255#8, true, 1#6) := by decide
/-- RV7: the budget stays at its floor, and 0x04 is data there. -/
theorem test_relayByte_floor :
    (framerOf (exec (.relayByte 0x04#8) (scanState 0#6 0x04#8 128#8 true))).map (fun f => (f.bud, f.rlyIdx)) = some (128#8, 1#6) ∧
    (callsOf (exec (.relayByte 0x04#8) (scanState 0#6 0x04#8 128#8 true))) = some [.transmitReady true, .transmitByte 0x04#8] := by
  decide
/-- EV7: a `Busy` answer leaves the packet. -/
theorem test_txSend_busy :
    framerOf (exec .txSend { withFramer fullSlot with env := { Env.reset with sendAnswers := [.busy] } }) = some fullSlot := by
  decide
/-- EV2. -/
theorem test_txSend_accepted :
    (framerOf (exec .txSend { withFramer fullSlot with env := { Env.reset with sendAnswers := [.accepted] } })).map
      (fun f => (f.txs, f.txInfl)) = some (false, true) := by decide

/-! ## The step, the holds and the words -/

/-- "Stimulus decoding": a step that tries a word of a reserved OP is refused. -/
theorem test_step_refuses :
    refusalOf (step (offering .taskLoop 0xF0000000#32 State.reset)) = some (.illegalStimulus 0xF0000000#32) := by decide
/-- EV8: a mapped ENCODE is held by a full slot and stays on offer. -/
theorem test_step_held :
    (match step (offering .taskLoop 0x10093C7F#32 (withFramer fullSlot)) with
      | .next s => some (s.framer, s.env.offers.length)
      | .fault _ | .refused _ => none) = some (fullSlot, 1) := by decide
/-- The placed instruction runs as the first one after reset: a real-time byte, a delivery, a relay byte, a hand-off. -/
theorem test_withFetchWord :
    wordOf (step (State.reset.withFetchWord 32 0x000000F8)) = some 0x0000F845#32 ∧
    (framerOf (step (State.reset.withFetchWord 32 0x30000000))).map (fun f => f.rlyAct) = some true ∧
    callsOf (step (State.reset.withFetchWord 8 0xF7)) = some [.transmitReady true, .transmitByte 0xF7#8, .requestNextBuffer] ∧
    (framerOf (step (State.reset.withFetchWord 0 0))).map (fun f => f.txInfl) = some true := by decide
/-- The examples of 30_encoding.md R62. -/
theorem test_resultWord :
    resultWord (.complete [0x90#8, 0x3C#8, 0x7F#8] 3#2 0x1#4) = 0x7F3C901D#32 ∧
    resultWord (.complete [0xF8#8] 1#2 0x4#4) = 0x0000F845#32 ∧
    resultWord (.sysExByte 0x01#8 true false) = 0x00000186#32 ∧
    resultWord (.sysExByte 0xF7#8 false true) = 0x0000F78A#32 ∧
    resultWord (.error .unterminatedSysEx 0x90#8) = 0x00009007#32 := by decide
/-- V25, V26: the status reads. -/
theorem test_status :
    (withParser (running 0x90#8)).status.curCat = .ok 0x0#4 ∧
    (withParser (midMessage 0x90#8 0x40#8 2#2 3#2)).status.curCat = .ok 0x1#4 ∧
    (withParser openSysEx).status.curCat = .ok 0x8#4 ∧ (withParser openSysEx).status.sxs = 1#2 := by decide
/-- "StatusTable domain". -/
theorem test_table_domain :
    faultOf (callTable 0x40#8 State.reset) = some (.tableDomain 0x40#8) ∧ categoryOf 0x7F#8 = .error (.tableDomain 0x7F#8) := by
  decide
/-- 30_encoding.md R69, R70: the words of `E 9, 3C, 7F` and of `PS 90 3C`. -/
theorem test_line_words :
    lineWord (.e 0x9#4 0x3C#8 0x7F#8) = 0x10093C7F#32 ∧
    (expandPseudo (.ps [0x90#8, 0x3C#8])).map lineWord = [0x00000090#32, 0x0000003C#32] := by decide
/-- 30_encoding.md R69, 43_relay.md R125: a marker asks no `transmitReady`, so the eager schedule takes it before the next
line although the next answer is `false`; an emitted byte waits, and the line goes first. -/
theorem test_eager_marker :
    eagerAgent (offering .usbTransmit 0x40000000#32 (scanState 0#6 0x04#8 0#8 false)) = .relay ∧
    eagerAgent (offering .usbTransmit 0x40000000#32 (scanState 0#6 0x05#8 0#8 false)) = .relay ∧
    eagerAgent (offering .usbTransmit 0x40000000#32 (scanState 0#6 0x04#8 1#8 false)) = .offer .usbTransmit := by decide

/-! ## A run that keeps every duty of 60_exceptions.md R148 -/

/-- The block after it relayed the only byte of a scan. -/
def afterScan : State :=
  { withFramer { scanning 0#6 0xF7#8 0#8 with rlyAct := false } with
    log := { Log.reset with calls := [.transmitReady true, .transmitByte 0xF7#8, .requestNextBuffer] } }

/-- Every agent in turn. -/
def agentOf (n : Nat) : Agent :=
  [Agent.offer .taskLoop, .offer .usbReceive, .offer .usbTransmit, .offer .resetSource, .txSend, .relay].getD (n % 6) .relay

/-- A scan of one byte, then every agent in turn with nothing to do. -/
def dutifulRun : Nat → State
  | 0 => { scanState 0#6 0xF7#8 0#8 true with env := { Env.reset with schedule := [.relay], readyAnswers := [true] } }
  | n + 1 => { afterScan with env := { Env.reset with schedule := [agentOf n] } }

theorem afterScan_idle (a : Agent) :
    step { afterScan with env := { Env.reset with schedule := [a] } } = .next afterScan := by
  cases a with
  | offer c => rfl
  | txSend => rfl
  | relay => rfl

theorem dutifulRun_calls (n : Nat) (c : Call) : ¬ CallAt dutifulRun c (n + 1) := by
  simp [CallAt, dutifulRun]

theorem witness_duties_isRun : IsRun dutifulRun := by
  intro n
  refine ⟨afterScan, ?_, { Env.reset with schedule := [agentOf n] },
    ⟨⟨[], rfl⟩, ⟨[agentOf n], rfl⟩, ⟨[], rfl⟩, ⟨[], rfl⟩, rfl⟩, rfl⟩
  cases n with
  | zero => rfl
  | succ n => exact afterScan_idle _

theorem witness_duties_scan : (dutifulRun 0).framer.rlyAct = true := rfl

theorem witness_duties_kept : LivenessDuties dutifulRun where
  ready h := by
    obtain ⟨m, hm, a, hc⟩ := h 1
    obtain ⟨k, rfl⟩ : ∃ k, m = k + 1 := ⟨m - 1, by omega⟩
    exact absurd hc (dutifulRun_calls k _)
  accepted h := by
    obtain ⟨m, hm, p, a, hc⟩ := h 1
    obtain ⟨k, rfl⟩ : ∃ k, m = k + 1 := ⟨m - 1, by omega⟩
    exact absurd hc (dutifulRun_calls k _)
  done n p hc := by
    cases n with
    | zero => simp [CallAt, dutifulRun, afterScan, scanState, withFramer, State.reset, Log.reset] at hc
    | succ n => exact absurd hc (dutifulRun_calls n _)
  fair a n := by
    have key : ∃ k, k < 6 ∧ agentOf k = a := by
      cases a with
      | offer c =>
        cases c
        · exact ⟨0, by omega, rfl⟩
        · exact ⟨1, by omega, rfl⟩
        · exact ⟨2, by omega, rfl⟩
        · exact ⟨3, by omega, rfl⟩
      | txSend => exact ⟨4, by omega, rfl⟩
      | relay => exact ⟨5, by omega, rfl⟩
    obtain ⟨k, hk, rfl⟩ := key
    refine ⟨6 * n + k + 1, by omega, ?_⟩
    have hmod : (6 * n + k) % 6 = k % 6 := by omega
    simp [TurnAt, dutifulRun, agentOf, Env.nextAgent, hmod]

/-! ## Witnesses: the hypotheses of each statement are met together, clause by clause, at boundary values -/

theorem witness_DecodeOfEncodeIsTheInstruction :
    ((Instr.relayByte 0x04#8).wf = true ∧ (Instr.relayByte 0x04#8).budgetCond false = true) ∧
    (Instr.relayMark3.wf = true ∧ Instr.relayMark3.budgetCond true = true) ∧
    ((Instr.encodeNop07 7#3 0xFF#8 0xFF#8).wf = true ∧ (Instr.encodeNop07 7#3 0xFF#8 0xFF#8).budgetCond true = true) := by
  decide

theorem witness_EncodeOfDecodeIsTheWord : ∃ i, decodeStimulus 0x100FFFFF#32 zeroBuffer = .ok i := ⟨_, rfl⟩

/-- The last legal word of each OP. -/
theorem witness_OneOpcodeRowCoversALegalWord :
    ¬ IllegalWord 0x000000FF#32 ∧ ¬ IllegalWord 0x100FFFFF#32 ∧ ¬ IllegalWord 0x2000000F#32 ∧
    ¬ IllegalWord 0x30000000#32 ∧ ¬ IllegalWord 0x40000000#32 ∧ ¬ IllegalWord 0x50000000#32 :=
  ⟨by decide, by decide, by decide, by decide, by decide, by decide⟩

/-- The first illegal word past each. -/
theorem witness_IllegalWordsAreRefused :
    (IllegalWord 0x00000100#32 ∧ IllegalWord 0x10100000#32 ∧ IllegalWord 0x20000010#32 ∧ IllegalWord 0x30000001#32 ∧
      IllegalWord 0x5FFFFFFF#32 ∧ IllegalWord 0x60000000#32) ∧
    ∃ (s : State) (c : Collaborator) (e : Env) (o : Offer), s.faulted = none ∧ s.env.TurnIs (.offer c) e ∧
      s.env.offerOf c = some o ∧ IllegalWord o.word :=
  ⟨⟨by decide, by decide, by decide, by decide, by decide, by decide⟩, offering .taskLoop 0x60000000#32 State.reset, .taskLoop, _, _, rfl, .inl ⟨[], rfl, rfl⟩, rfl, by decide⟩

theorem witness_StepRunsTheOfferedStimulus :
    ∃ (s : State) (c : Collaborator) (e : Env) (o : Offer) (i : Instr), s.faulted = none ∧ s.env.TurnIs (.offer c) e ∧
      s.env.offerOf c = some o ∧ decodeStimulus o.word o.buf = .ok i ∧ heldBy i s.framer = none :=
  ⟨offering .taskLoop 0x000000FF#32 State.reset, .taskLoop, _, _, .parseRt 7#3, rfl, .inl ⟨[], rfl, rfl⟩, rfl, rfl, rfl⟩

/-- A scan whose RELAY moves next, an idle block whose RELAY moves next, and a TXSEND; the first turn is listed, and
an empty list is a turn of whatever agent is drawn. -/
theorem witness_StepRunsTheInternalSteps :
    (∃ (s : State) (e : Env), s.faulted = none ∧ s.env.TurnIs .relay e ∧ s.framer.rlyAct = true) ∧
    (∃ (s : State) (e : Env), s.faulted = none ∧ s.env.TurnIs .relay e ∧ s.framer.rlyAct = false) ∧
    (∃ (s : State) (e : Env), s.faulted = none ∧ s.env.TurnIs .txSend e) ∧
    (∃ (a : Agent) (e : Env), State.reset.env.TurnIs a e) :=
  ⟨⟨{ withFramer (scanning 63#6 0x00#8 0#8) with env := { Env.reset with schedule := [.relay] } }, _, rfl,
      .inl ⟨[], rfl, rfl⟩, rfl⟩,
   ⟨{ State.reset with env := { Env.reset with schedule := [.relay] } }, _, rfl, .inl ⟨[], rfl, rfl⟩, rfl⟩,
   ⟨{ State.reset with env := { Env.reset with schedule := [.txSend] } }, _, rfl, .inl ⟨[], rfl, rfl⟩⟩,
   ⟨_, _, .inr ⟨rfl, rfl, rfl⟩⟩⟩

theorem witness_HeldStimulusStaysOffered :
    (∃ (s : State) (c : Collaborator) (e : Env) (o : Offer) (i : Instr), s.faulted = none ∧ s.env.TurnIs (.offer c) e ∧
      s.env.offerOf c = some o ∧ decodeStimulus o.word o.buf = .ok i ∧ heldBy i s.framer ≠ none) ∧
    (withFramer fullSlot).faulted = none ∧ heldBy (.encodePb 0x00#8 0x00#8) (withFramer fullSlot).framer ≠ none :=
  ⟨⟨offering .taskLoop 0x10093C7F#32 (withFramer fullSlot), .taskLoop, _, _, .encodeNoteOn 0x3C#8 0x7F#8, rfl,
      .inl ⟨[], rfl, rfl⟩, rfl, rfl, by decide⟩, rfl, by decide⟩

theorem witness_HoldsAreThoseOfTheTable :
    parseOperand (.parseRt 7#3) = some 0xFF#8 ∧ parseOperand (.parseData 0#7) = some 0x00#8 ∧
    encodeOperands (.encodeNop07 7#3 0x01#8 0x02#8) = some (0x7#4, 0x01#8, 0x02#8) ∧
    encodeOperands (.encodeNoteOff 0x01#8 0x02#8) = some (0x8#4, 0x01#8, 0x02#8) := by decide

/-- The two sides of the domain's edge. -/
theorem witness_TableDomainIsTheStatusBytes :
    State.reset.faulted = none ∧ (0x7F#8).toNat < 0x80 ∧ 0x80 ≤ (0x80#8).toNat := by decide

/-- The ends of the table's ranges. -/
theorem witness_StatusTableValues :
    (0x8F#8).extractLsb' 4 4 = 0x8#4 ∧ (0xBF#8).extractLsb' 4 4 = 0xB#4 ∧
    (0xEF#8).extractLsb' 4 4 = 0xE#4 ∧ (0xC0#8).extractLsb' 4 4 = 0xC#4 ∧ (0xDF#8).extractLsb' 4 4 = 0xD#4 ∧
    0xF8 ≤ (0xF8#8).toNat := by decide

theorem witness_DerivedStatusOutputs :
    (withParser openSysEx).parser.sxs = .active ∧
    ((withParser (midMessage 0xF3#8 0x00#8 1#2 2#2)).parser.Inv ∧
      (withParser (midMessage 0xF3#8 0x00#8 1#2 2#2)).parser.sxs ≠ .active ∧
      (withParser (midMessage 0xF3#8 0x00#8 1#2 2#2)).parser.accN ≠ 0#2) ∧
    (State.reset.parser.sxs ≠ .active ∧ State.reset.parser.accN = 0#2) := by decide

theorem witness_ResetWritesTheListedRegisters :
    (scanState 63#6 0x90#8 128#8 false).faulted = none ∧
    ({ State.reset with faulted := some .rxOverrun } : State).faulted = some .rxOverrun := ⟨rfl, rfl⟩

theorem witness_ResetForgetsTheMessage : ∃ t, exec .reset (withParser openSysEx) = .next t := ⟨_, rfl⟩

theorem witness_ParseMeaningsAgreeWithDispatch :
    parseOperand (.parseData 0x7F#7) = some 0x7F#8 ∧ parseOperand (.parseNoteOff 0#4) = some 0x80#8 ∧
    parseOperand .parseEox = some 0xF7#8 ∧ parseOperand (.parseRt 0#3) = some 0xF8#8 := by decide

theorem witness_EveryParseByteCompletes :
    parseOperand (.parseData 0x7F#7) = some 0x7F#8 ∧ (withParser (midMessage 0x90#8 0x3C#8 2#2 3#2)).faulted = none ∧
    (withParser (midMessage 0x90#8 0x3C#8 2#2 3#2)).framer.rlyAct = false ∧
    (withParser (midMessage 0x90#8 0x3C#8 2#2 3#2)).parser.Inv := by decide

theorem witness_LongStatusStartsAMessage :
    parseOperand .parseSs = some 0xF3#8 ∧ lengthOf 0xF3#8 = .ok 2#2 ∧ (2#2 ≠ 1#2) ∧ State.reset.faulted = none ∧
    State.reset.framer.rlyAct = false ∧ State.reset.parser.sxs ≠ .active := by decide

theorem witness_OneByteStatusCompletes :
    parseOperand .parseTune = some 0xF6#8 ∧ parseOperand (.parseUndef 0#1) = some 0xF4#8 ∧ State.reset.faulted = none ∧
    State.reset.framer.rlyAct = false ∧ State.reset.parser.sxs ≠ .active := by decide

theorem witness_StatusInsideSysExIsUnterminated :
    (parseOperand .parseTune = some 0xF6#8 ∧ lengthOf 0xF6#8 = .ok 1#2 ∧ (0xF6#8).toNat ≤ 0xF6) ∧
    (parseOperand (.parseNoteOff 0#4) = some 0x80#8 ∧ lengthOf 0x80#8 = .ok 3#2) ∧
    (withParser openSysEx).faulted = none ∧ (withParser openSysEx).framer.rlyAct = false ∧
    (withParser openSysEx).parser.sxs = .active := by decide

theorem witness_SysExStartOpens_EndOfExclusiveCloses :
    (withParser openSysEx).faulted = none ∧ (withParser openSysEx).framer.rlyAct = false ∧
    (withParser openSysEx).parser.sxs = .active ∧
    (withParser { openSysEx with sxs := .errored }).parser.sxs ≠ .active := by decide

theorem witness_RealTimeByteIsTransparent :
    State.reset.faulted = none ∧ State.reset.framer.rlyAct = false := ⟨rfl, rfl⟩

theorem witness_SysExDataByte :
    (withParser openSysEx).faulted = none ∧ (withParser openSysEx).framer.rlyAct = false ∧
    (withParser openSysEx).parser.sxs = .active := ⟨rfl, rfl, rfl⟩

/-- Its three clauses: the second byte of three, the last of two, the last of three. -/
theorem witness_DataByteContinuesTheMessage :
    ((midMessage 0x90#8 0x00#8 1#2 3#2).Inv ∧ (midMessage 0x90#8 0x00#8 1#2 3#2).accN ≠ 0#2 ∧
      categoryOf 0x90#8 = .ok 0x1#4 ∧ (midMessage 0x90#8 0x00#8 1#2 3#2).accN + 1#2 ≠ 3#2) ∧
    ((midMessage 0xF1#8 0x00#8 1#2 2#2).Inv ∧ categoryOf 0xF1#8 = .ok 0x2#4) ∧
    ((midMessage 0xF2#8 0x7F#8 2#2 3#2).Inv ∧ categoryOf 0xF2#8 = .ok 0x2#4) ∧
    (withParser (midMessage 0x90#8 0x00#8 1#2 3#2)).faulted = none ∧
    (withParser (midMessage 0x90#8 0x00#8 1#2 3#2)).framer.rlyAct = false :=
  ⟨⟨by decide, by decide, by decide, by decide⟩, ⟨by decide, by decide⟩, ⟨by decide, by decide⟩, rfl, rfl⟩

theorem witness_DataByteStartsFromRunningStatus :
    (withParser (running 0xEF#8)).faulted = none ∧ (withParser (running 0xEF#8)).framer.rlyAct = false ∧
    (withParser (running 0xEF#8)).parser.sxs ≠ .active ∧ (withParser (running 0xEF#8)).parser.accN = 0#2 ∧
    (lengthOf 0xEF#8 = .ok 3#2 ∧ categoryOf 0xEF#8 = .ok 0x1#4) ∧
    (lengthOf 0xF3#8 = .ok 2#2 ∧ categoryOf 0xF3#8 = .ok 0x2#4) := by decide

theorem witness_OrphanDataByteIsDiscarded :
    State.reset.faulted = none ∧ State.reset.framer.rlyAct = false ∧ State.reset.parser.sxs ≠ .active ∧
    State.reset.parser.accN = 0#2 ∧ State.reset.parser.rs = 0x00#8 ∧ lengthOf (running 0xF6#8).rs = .ok 1#2 := by decide

theorem witness_OnlyEnabledCategoriesSurface :
    ∃ (t : State) (r : Result), parseOperand (.parseRt 0#3) = some 0xF8#8 ∧ exec (.parseRt 0#3) State.reset = .next t ∧
      t.log.results = State.reset.log.results ++ [r] := ⟨_, _, rfl, rfl, rfl⟩

theorem witness_FilterDoesNotSteerTheParser :
    ∃ t, parseOperand (.parseRt 0#3) = some 0xF8#8 ∧ exec (.parseRt 0#3) (withParser openSysEx) = .next t := ⟨_, rfl, rfl⟩

theorem witness_StatusByteRecoversTheParser :
    (lengthOf 0xF3#8 = .ok 2#2 ∧ categoryOf 0xF3#8 = .ok 0x2#4 ∧ [0x7F#7].length + 1 = (2#2).toNat) ∧
    (lengthOf 0x80#8 = .ok 3#2 ∧ categoryOf 0x80#8 = .ok 0x1#4 ∧ [0#7, 0x7F#7].length + 1 = (3#2).toNat) := by decide

theorem witness_RunningStatusRepeats :
    (running 0x90#8).sxs ≠ .active ∧ (running 0x90#8).accN = 0#2 ∧ lengthOf (running 0x90#8).rs = .ok 3#2 ∧
    categoryOf (running 0x90#8).rs = .ok 0x1#4 ∧
    (∀ g ∈ [[0x3C#7, 0x7F#7], [0x40#7, 0x00#7]], g.length + 1 = (3#2).toNat) := by decide

theorem witness_RealTimeBytesCanBeDeleted :
    ∃ (p' : Parser) (rs : List Result), feedBytes [0xF0#8, 0xF8#8, 0x01#8, 0xFF#8, 0xF7#8] Parser.reset = .ok (rs, p') :=
  ⟨_, _, rfl⟩

theorem witness_ParserInvariantIsKept :
    ∃ t, (withParser (midMessage 0x90#8 0x3C#8 2#2 3#2)).parser.Inv ∧
      step (offering .taskLoop 0x0000007F#32 (withParser (midMessage 0x90#8 0x3C#8 2#2 3#2))) = .next t :=
  ⟨_, by decide, rfl⟩

theorem witness_SetFilterStagesTheMask :
    State.reset.faulted = none ∧ State.reset.framer.rlyAct = false ∧ ∃ t, exec (.setFilter 0x0#4) State.reset = .next t :=
  ⟨rfl, rfl, _, rfl⟩

theorem witness_MappedEncodeBuildsThePacket :
    State.reset.faulted = none ∧ State.reset.framer.rlyAct = false ∧ State.reset.framer.txs = false := ⟨rfl, rfl, rfl⟩

theorem witness_UnmappedEncodeIsANoOp :
    encodeOperands (.encodeNopAB 0#1 0x01#8 0x02#8) = some (0xA#4, 0x01#8, 0x02#8) ∧ 0xA#4 ≠ 0x8#4 ∧ 0xA#4 ≠ 0x9#4 ∧
    0xA#4 ≠ 0xE#4 ∧ (withFramer fullSlot).faulted = none := by decide

/-- Enabled with each answer listed, and not enabled for each of the three reasons. -/
theorem witness_TxSendOffersTheSlot :
    (fullSlot.txs = true ∧ fullSlot.txInfl = false ∧ fullSlot.rlyAct = false) ∧
    (∃ e, ({ Env.reset with sendAnswers := [.accepted] } : Env).SendIs .accepted e) ∧
    (∃ e, ({ Env.reset with sendAnswers := [.busy] } : Env).SendIs .busy e) ∧
    (∃ a e, Env.reset.SendIs a e) ∧
    Framer.reset.txs = false ∧ ({ fullSlot with txInfl := true } : Framer).txInfl = true ∧
    ({ fullSlot with rlyAct := true } : Framer).rlyAct = true :=
  ⟨⟨rfl, rfl, rfl⟩, ⟨_, .inl ⟨[], rfl, rfl⟩⟩, ⟨_, .inl ⟨[], rfl, rfl⟩⟩, ⟨_, _, .inr ⟨rfl, rfl, rfl⟩⟩, rfl, rfl, rfl⟩

theorem witness_TxDoneReportsThePacket :
    (withFramer { fullSlot with txInfl := true }).faulted = none ∧
    (withFramer { fullSlot with txInfl := true }).framer.txInfl = true ∧ State.reset.framer.txInfl = false := ⟨rfl, rfl, rfl⟩

theorem witness_NoZeroVelocityNoteOnIsOffered :
    ∃ t, (withFramer fullSlot).PacketsOk ∧
      step { withFramer fullSlot with env := { Env.reset with schedule := [.txSend], sendAnswers := [.accepted] } } = .next t :=
  ⟨_, ⟨fun _ _ h => by simp [withFramer, State.reset, Log.reset] at h, fun _ => by decide⟩, rfl⟩

theorem witness_PacketStaysUntilAccepted :
    ∃ t, (withFramer fullSlot).framer.txs = true ∧ exec (.encodePb 0x00#8 0x00#8) (withFramer fullSlot) = .next t ∧
      Instr.encodePb 0x00#8 0x00#8 ≠ .reset := ⟨_, rfl, rfl, by decide⟩

theorem witness_DeliveryLatchesTheBuffer :
    State.reset.faulted = none ∧ State.reset.framer.rlyAct = false ∧ (scanning 63#6 0x00#8 0#8).rlyAct = true := ⟨rfl, rfl, rfl⟩

/-- Each marker, at the first index and at the last. -/
theorem witness_MarkersSetTheBudget :
    ((scanning 0#6 0x04#8 0#8).rlyAct = true ∧ (scanning 0#6 0x04#8 0#8).bud = 0#8 ∧
      (scanning 0#6 0x04#8 0#8).visited = 0x04#8 ∧ (scanning 0#6 0x04#8 0#8).rlyIdx ≠ 63#6) ∧
    ((scanning 63#6 0x05#8 0#8).rlyAct = true ∧ (scanning 63#6 0x05#8 0#8).bud = 0#8 ∧
      (scanning 63#6 0x05#8 0#8).visited = 0x05#8 ∧ (scanning 63#6 0x05#8 0#8).rlyIdx = 63#6) := by decide

theorem witness_RelayedEndOfExclusiveStopsTheScan :
    (scanState 63#6 0xF7#8 128#8 true).faulted = none ∧ (scanState 63#6 0xF7#8 128#8 true).framer.rlyAct = true ∧
    (scanState 63#6 0xF7#8 128#8 true).framer.visited = 0xF7#8 ∧
    ∃ e, (scanState 63#6 0xF7#8 128#8 true).env.ReadyIs true e :=
  ⟨rfl, rfl, by decide, _, .inl ⟨[], rfl, rfl⟩⟩

/-- The last index, at a budget where 0x04 is data; and the first, where 0x00 is data at budget 0. -/
theorem witness_RelayedByteSpendsTheBudget :
    ((scanState 63#6 0x04#8 1#8 true).framer.visited = 0x04#8 ∧ (scanState 63#6 0x04#8 1#8 true).framer.rlyIdx = 63#6 ∧
      ¬ ((scanState 63#6 0x04#8 1#8 true).framer.bud = 0#8 ∧ (0x04#8 = 0x04#8 ∨ 0x04#8 = 0x05#8))) ∧
    ((scanState 0#6 0x00#8 0#8 true).framer.visited = 0x00#8 ∧ (scanState 0#6 0x00#8 0#8 true).framer.rlyIdx ≠ 63#6) ∧
    (∃ e, (scanState 63#6 0x04#8 1#8 true).env.ReadyIs true e) ∧ (scanState 63#6 0x04#8 1#8 true).faulted = none ∧
    (scanState 63#6 0x04#8 1#8 true).framer.rlyAct = true :=
  ⟨by decide, by decide, ⟨_, .inl ⟨[], rfl, rfl⟩⟩, rfl, rfl⟩

theorem witness_SerialNotReadyHoldsTheRelay :
    (scanState 0#6 0x06#8 0#8 false).faulted = none ∧ (scanState 0#6 0x06#8 0#8 false).framer.rlyAct = true ∧
    (∃ e, (scanState 0#6 0x06#8 0#8 false).env.ReadyIs false e) ∧
    ¬ ((scanState 0#6 0x06#8 0#8 false).framer.bud = 0#8 ∧ ((scanState 0#6 0x06#8 0#8 false).framer.visited = 0x04#8 ∨
      (scanState 0#6 0x06#8 0#8 false).framer.visited = 0x05#8)) :=
  ⟨rfl, rfl, ⟨_, .inl ⟨[], rfl, rfl⟩⟩, by decide⟩

theorem witness_BudgetDecrementSaturates : (128#8 : Budget).toInt = -128 ∧ (129#8 : Budget).toInt ≠ -128 := by decide

theorem witness_FramerInvariantIsKept :
    ∃ t, (scanState 63#6 0x00#8 3#8 true).framer.Inv ∧
      step { scanState 63#6 0x00#8 3#8 true with env := { Env.reset with schedule := [.relay], readyAnswers := [true] } } = .next t :=
  ⟨_, by decide, rfl⟩

/-- A buffer whose first byte is 0xF7: one step, one emitted byte. -/
theorem witness_RelayScanRefinesTheBufferFunction :
    ∃ (s : State) (restA : List Agent) (restR : List Bool) (r : ScanResult), s.faulted = none ∧ s.framer.rlyAct = true ∧
      s.framer.rlyIdx = 0#6 ∧ r = scanBytes s.framer.rxbuf.toList s.framer.bud s.framer.bufUf ∧
      s.env.schedule = List.replicate r.visited .relay ++ restA ∧
      s.env.readyAnswers = List.replicate r.emitted.length true ++ restR :=
  ⟨{ withFramer (scanning 0#6 0xF7#8 0#8) with env := { Env.reset with schedule := [.relay], readyAnswers := [true] } }, [], [],
    { emitted := [0xF7#8], bud := 0#8, bufUf := false, visited := 1 }, rfl, rfl, rfl, by decide, rfl, rfl⟩

theorem witness_NegativeBudgetSwitchesMarkersOff :
    ∃ t, (scanState 0#6 0x04#8 255#8 true).framer.bud.toInt < 0 ∧
      exec (.relayByte 0x04#8) (scanState 0#6 0x04#8 255#8 true) = .next t ∧ Instr.relayByte 0x04#8 ≠ .reset ∧
      Instr.relayByte 0x04#8 ≠ .relayEox ∧ t.framer.rlyIdx ≠ (scanState 0#6 0x04#8 255#8 true).framer.rlyIdx ∧
      (scanState 0#6 0x04#8 255#8 true).framer.rlyAct = true :=
  ⟨_, by decide, rfl, by decide, by decide, by decide, rfl⟩

theorem witness_SerialBytesComeFromTheBuffer_RearmExactlyAtScanEnd :
    ∃ t, exec .relayEox (scanState 0#6 0xF7#8 0#8 true) = .next t := ⟨_, rfl⟩

theorem witness_UnitsShareNoRegister :
    (∃ t, exec (.parseRt 0#3) State.reset = .next t) ∧ parseOperand (.parseRt 0#3) = some 0xF8#8 ∧
    Instr.parseRt 0#3 ≠ .reset ∧ (∃ t, exec (.encodePb 0x00#8 0x00#8) State.reset = .next t) ∧
    ¬ ((∃ b, parseOperand (.encodePb 0x00#8 0x00#8) = some b) ∨ (∃ m, Instr.encodePb 0x00#8 0x00#8 = .setFilter m)) :=
  ⟨⟨_, rfl⟩, rfl, by decide, ⟨_, rfl⟩, by simp [parseOperand]⟩

theorem witness_ScanHoldsTheTaskLoop :
    (scanState 63#6 0x00#8 0#8 true).faulted = none ∧ (scanState 63#6 0x00#8 0#8 true).framer.rlyAct = true ∧
    parseOperand .parseEox = some 0xF7#8 ∧ encodeOperands (.encodeNopF 0x00#8 0x00#8) = some (0xF#4, 0x00#8, 0x00#8) := by
  decide

theorem witness_FaultedStateHasNoStep :
    ({ State.reset with faulted := some .txDoneSpurious } : State).faulted = some .txDoneSpurious := rfl

theorem witness_OnlyBrokenDutiesFault : State.reset.faulted = none ∧ State.reset.parser.Inv := by decide

theorem witness_LegalTaskLoopRunsAreSafe :
    (offering .taskLoop 0x100FFFFF#32 State.reset).faulted = none ∧
    (offering .taskLoop 0x100FFFFF#32 State.reset).parser.Inv ∧
    (∀ o ∈ (offering .taskLoop 0x100FFFFF#32 State.reset).env.offers,
      ¬ IllegalWord o.word ∧ o.word.extractLsb' 28 4 ≠ 0x3#4 ∧ o.word.extractLsb' 28 4 ≠ 0x4#4) := by decide

theorem witness_SequencesOnlyGrow : ∃ t, step (offering .taskLoop 0x000000F8#32 State.reset) = .next t := ⟨_, rfl⟩

theorem witness_QuiescentStateIsIdle :
    State.reset.faulted = none ∧ State.reset.Quiescent ∧ (withFramer { fullSlot with txInfl := true }).Quiescent := by decide

theorem witness_ResultWordIsOneToOne :
    (Result.complete [0x90#8, 0x3C#8, 0x7F#8] 3#2 0x8#4).wf = true ∧ resultOfWord 0x0000F08A#32 = some (.sysExByte 0xF0#8 false true) := by
  decide

theorem witness_ReturnedResultsAreLegal :
    ∃ (t : State) (r : Result), parseOperand (.parseRt 7#3) = some 0xFF#8 ∧ State.reset.parser.Inv ∧
      exec (.parseRt 7#3) State.reset = .next t ∧ t.log.results = State.reset.log.results ++ [r] :=
  ⟨_, _, rfl, by decide, rfl, rfl⟩

end Sys2Proof.Tests
end

section
/-! PROOFS. What a scheduled turn runs (30_encoding.md R69, 60_exceptions.md R137, R139): the equations of a step, forward. -/

namespace Sys2Proof.Machine

/-! ## A turn -/

/-- Using up a turn takes no offer. -/
theorem Env.TurnIs.offers_eq {e e' : Env} {a : Agent} (h : e.TurnIs a e') : e'.offers = e.offers := by
  have hnext := nextAgent_iff.2 h
  rw [← nextAgent_offers e, hnext]

/-- Using up a turn leaves what each collaborator offers now. -/
theorem Env.TurnIs.offerOf_eq {e e' : Env} {a : Agent} (h : e.TurnIs a e') (c : Collaborator) :
    e'.offerOf c = e.offerOf c := by
  rw [Env.offerOf, Env.offerOf, h.offers_eq]

/-- A step of a state that is not faulted is the move of the agent whose turn it is, with that turn used up. -/
theorem step_of_turn {s : State} {a : Agent} {e : Env} (hf : s.faulted = none) (ht : s.env.TurnIs a e) :
    step s = stepAgent a (s.setEnv e) := by
  rw [step, stepMachine, unlessFaulted_of_none hf, nextAgent_iff.2 ht]

/-! ## A collaborator's turn -/

/-- An offered stimulus that decodes and that no hold keeps is taken: its meaning runs without that offer. -/
theorem stepOffer_of_taken {c : Collaborator} {s : State} {o : Offer} {i : Instr} (ho : s.env.offerOf c = some o)
    (hd : decodeStimulus o.word o.buf = .ok i) (hh : heldBy i s.framer = none) :
    stepOffer c s = exec i (s.setEnv (s.env.takeOffer c)) := by
  simp only [stepOffer, ho, hd, hh]

/-- Settles O6: the step is the scheduled collaborator's turn, and its offer is still there to be taken once the turn
is used up. -/
theorem stepRunsTheOfferedStimulus : Obligations.StepRunsTheOfferedStimulus := by
  intro s c e o i hf ht ho hd hh
  have hoffer : (s.setEnv e).env.offerOf c = some o := (ht.offerOf_eq c).trans ho
  have htaken : stepOffer c (s.setEnv e) = exec i (s.setEnv (e.takeOffer c)) := stepOffer_of_taken hoffer hd hh
  rw [step_of_turn hf ht, stepAgent, htaken, Env.takeOffer, ht.offers_eq, State.setEnv]

end Sys2Proof.Machine
end

section
/-! PROOFS. What one instruction can do, said once: PARSE and ENCODE by their operands (10_state.md R36), that every
instruction answers unless faulted (60_exceptions.md R136), and the inversion of `exec`. -/

namespace Sys2Proof.Machine

/-! ## PARSE and ENCODE by their operands -/

/-- 41_parser.md R78: every PARSE class is Dispatch on the byte it stands for. -/
theorem exec_of_parseOperand {i : Instr} {b : Byte} (h : parseOperand i = some b) (s : State) :
    exec i s = parseFrame (dispatchByte b) s := by
  cases i with
  | parseData d => obtain rfl := Option.some.inj h; rw [dispatchByte_data]; rfl
  | parseNoteOff | parseNoteOn | parsePolyKp | parseCc | parsePc | parseChp | parsePb =>
    obtain rfl := Option.some.inj h
    rw [dispatchByte_voice _ _ (by decide)]; rfl
  | parseSox => obtain rfl := Option.some.inj h; rw [dispatchByte_sox]; rfl
  | parseEox => obtain rfl := Option.some.inj h; rw [dispatchByte_eox]; rfl
  | parseMtc | parseSpp | parseSs | parseTune =>
    obtain rfl := Option.some.inj h
    rw [dispatchByte_status (by decide) (by decide) (by decide) (by decide)]; rfl
  | parseUndef x =>
    obtain rfl := Option.some.inj h
    have hx : 0x80 ≤ (undefByte x).toNat ∧ (undefByte x).toNat < 0xF8 ∧ undefByte x ≠ 0xF0#8 ∧ undefByte x ≠ 0xF7#8 := by
      clear h; revert x; decide
    obtain ⟨hstatus, hrt, hsox, heox⟩ := hx
    rw [dispatchByte_status hstatus hrt hsox heox]; rfl
  | parseRt x => obtain rfl := Option.some.inj h; rw [dispatchByte_realTime]; rfl
  | _ => cases h

/-- 42_encoder.md R105 to R111: an ENCODE is mapped, and what it builds is one of the encoder's packets, or unmapped. -/
theorem exec_of_encodeOperands {i : Instr} {n : Nibble} {d1 d2 : Byte} (h : encodeOperands i = some (n, d1, d2)) :
    (∃ cin st e1 e2, PacketOk #v[byteOfNibbles 0x0#4 cin, st, e1, e2] ∧ exec i = encodeMapped cin st e1 e2) ∨
    exec i = encodeUnmapped := by
  cases i with
  | encodeNoteOff | encodePb => exact .inl ⟨_, _, _, _, by simp [PacketOk, byteOfNibbles], rfl⟩
  | encodeNoteOn d1 d2 =>
    by_cases hz : d2 = 0x00#8
    · exact .inl ⟨_, _, _, _, by simp [PacketOk, byteOfNibbles], funext fun _ => if_pos hz⟩
    · exact .inl ⟨_, _, _, _, by simp [PacketOk, byteOfNibbles, hz], funext fun _ => if_neg hz⟩
  | encodeNop07 | encodeNopAB | encodeNopCD | encodeNopF => exact .inr rfl
  | _ => cases h

/-! ## Every instruction answers unless faulted -/

/-- A meaning that answers the recorded fault of a faulted state, and a next state otherwise. -/
def Guarded (m : State → StepOutcome) : Prop :=
  ∀ s, (∀ f, s.faulted = some f → m s = .fault f) ∧ (s.faulted = none → ∃ t, m s = .next t)

theorem guarded_unlessFaulted {k : State → StepOutcome} (hk : ∀ s, ∃ t, k s = .next t) :
    Guarded (fun s => unlessFaulted s k) := fun s =>
  ⟨fun _ h => unlessFaulted_of_some h, fun h => (hk s).imp fun _ ht => (unlessFaulted_of_none h).trans ht⟩

theorem unlessRelayBusy_answers {k : State → StepOutcome} (hk : ∀ s, ∃ t, k s = .next t) (s : State) :
    ∃ t, unlessRelayBusy s k = .next t := by
  unfold unlessRelayBusy
  split
  · exact ⟨_, rfl⟩
  · exact hk s

theorem parseFrame_guarded (branch : Parser → ParseStep) : Guarded (parseFrame branch) :=
  guarded_unlessFaulted <| unlessRelayBusy_answers fun s => by split <;> exact ⟨_, rfl⟩

theorem encodeMapped_guarded (cin : Nibble) (st d1 d2 : Byte) : Guarded (encodeMapped cin st d1 d2) :=
  guarded_unlessFaulted <| unlessRelayBusy_answers fun s => by split <;> exact ⟨_, rfl⟩

theorem encodeUnmapped_guarded : Guarded encodeUnmapped :=
  guarded_unlessFaulted <| unlessRelayBusy_answers fun _ => ⟨_, rfl⟩

theorem relayMarker_guarded (marker : Byte) (n : Budget) : Guarded (relayMarker marker n) :=
  guarded_unlessFaulted fun s => by split <;> exact ⟨_, rfl⟩

theorem relayEmit_answers (b : Byte) (upd : Framer → Framer) (stop : Bool) (s : State) :
    ∃ t, relayEmit b upd stop s = .next t := by
  unfold relayEmit
  split <;> exact ⟨_, rfl⟩

theorem guarded_of_parseOperand {i : Instr} {b : Byte} (h : parseOperand i = some b) : Guarded (exec i) :=
  funext (exec_of_parseOperand h) ▸ parseFrame_guarded _

theorem guarded_of_encodeOperands {i : Instr} {n : Nibble} {d1 d2 : Byte} (h : encodeOperands i = some (n, d1, d2)) :
    Guarded (exec i) := by
  obtain ⟨cin, st, e1, e2, -, hx⟩ | hx := exec_of_encodeOperands h <;> rw [hx]
  · exact encodeMapped_guarded cin st e1 e2
  · exact encodeUnmapped_guarded

/-- 60_exceptions.md R136: every instruction answers the recorded fault of a faulted state, RESET included, and from any
other state answers a next state. -/
theorem exec_guarded (i : Instr) : Guarded (exec i) := by
  cases i with
  | parseData | parseNoteOff | parseNoteOn | parsePolyKp | parseCc | parsePc | parseChp | parsePb | parseSox | parseMtc
  | parseSpp | parseSs | parseUndef | parseTune | parseEox | parseRt => exact guarded_of_parseOperand rfl
  | encodeNoteOff | encodeNoteOn | encodePb | encodeNop07 | encodeNopAB | encodeNopCD | encodeNopF =>
    exact guarded_of_encodeOperands rfl
  | setFilter => exact guarded_unlessFaulted <| unlessRelayBusy_answers fun _ => ⟨_, rfl⟩
  | rxbuf | txDone => exact guarded_unlessFaulted fun s => by split <;> exact ⟨_, rfl⟩
  | reset => exact guarded_unlessFaulted fun _ => ⟨_, rfl⟩
  | relayMark3 | relayMark1 => exact relayMarker_guarded _ _
  | relayEox | relayByte =>
    refine guarded_unlessFaulted fun s => ?_
    split
    · exact relayEmit_answers _ _ _ s
    · exact ⟨_, rfl⟩
  | txSend =>
    refine guarded_unlessFaulted fun s => ?_
    split
    · split <;> exact ⟨_, rfl⟩
    · exact ⟨_, rfl⟩

/-! ## The tail of a RELAY step writes the Framer unit and calls, nothing else -/

@[simp] theorem advanceScan_parser (s : State) (stop : Bool) : (s.advanceScan stop).parser = s.parser := by
  rcases advanceScan_cases s stop with ⟨-, e⟩ | ⟨-, -, e⟩ <;> rw [e] <;> rfl

@[simp] theorem advanceScan_results (s : State) (stop : Bool) :
    (s.advanceScan stop).log.results = s.log.results := by
  rcases advanceScan_cases s stop with ⟨-, e⟩ | ⟨-, -, e⟩ <;> rw [e] <;> rfl

@[simp] theorem advanceScan_faulted (s : State) (stop : Bool) : (s.advanceScan stop).faulted = s.faulted := by
  rcases advanceScan_cases s stop with ⟨-, e⟩ | ⟨-, -, e⟩ <;> rw [e] <;> rfl

/-! ## The inversion of `exec` -/

/-- What an instruction that answers a next state did, guards included. A held or not enabled instruction leaves the
state (log 5); RXBUF and TXDONE never do, since they are taken or fault. -/
inductive Effect : Instr → State → State → Prop where
  | unmoved {i : Instr} {s : State} (hrx : ∀ buf, i ≠ .rxbuf buf) (htx : i ≠ .txDone) : Effect i s s
  | parsed {i : Instr} {s : State} {b : Byte} {r : Result} {p : Parser} (hb : parseOperand i = some b)
      (hidle : s.framer.rlyAct = false) (hunit : parseUnit (dispatchByte b) s.parser = .ok (r, p)) :
      Effect i s ((s.setParser p).returnResult r)
  | parseFault {i : Instr} {s : State} {b : Byte} {f : Fault} (hb : parseOperand i = some b)
      (hidle : s.framer.rlyAct = false) (hunit : parseUnit (dispatchByte b) s.parser = .error f) :
      Effect i s { s with faulted := some f }
  | staged {s : State} {m : Nibble} (hidle : s.framer.rlyAct = false) :
      Effect (.setFilter m) s (s.setParser { s.parser with fltPend := m })
  | built {i : Instr} {s : State} {n cin : Nibble} {d1 d2 st e1 e2 : Byte} (hn : encodeOperands i = some (n, d1, d2))
      (hpacket : PacketOk #v[byteOfNibbles 0x0#4 cin, st, e1, e2]) (hidle : s.framer.rlyAct = false)
      (hempty : s.framer.txs = false) : Effect i s (s.setFramer (s.framer.buildPacket cin st e1 e2))
  | accepted {s : State} {e : Env} (henabled : s.framer.sendEnabled = true) (hanswer : s.env.SendIs .accepted e) :
      Effect .txSend s (((s.setEnv e).call (.trySend s.framer.txp .accepted)).setFramer s.framer.accepted)
  | refusedBusy {s : State} {e : Env} (henabled : s.framer.sendEnabled = true) (hanswer : s.env.SendIs .busy e) :
      Effect .txSend s ((s.setEnv e).call (.trySend s.framer.txp .busy))
  | reported {s : State} (hflight : s.framer.txInfl = true) :
      Effect .txDone s (s.setFramer { s.framer with txInfl := false })
  | spurious {s : State} (hflight : s.framer.txInfl = false) :
      Effect .txDone s { s with faulted := some .txDoneSpurious }
  | latched {s : State} {buf : Buffer} (hidle : s.framer.rlyAct = false) :
      Effect (.rxbuf buf) s (s.setFramer (s.framer.latch buf))
  | overrun {s : State} {buf : Buffer} (hscan : s.framer.rlyAct = true) :
      Effect (.rxbuf buf) s { s with faulted := some .rxOverrun }
  | reset {s : State} : Effect .reset s ((s.setParser s.parser.resetRegs).setFramer s.framer.resetRegs)
  | marked {i : Instr} {s : State} {marker : Byte} {n : Budget}
      (hi : (i = .relayMark3 ∧ marker = Config.mark3 ∧ n = 3#8) ∨ (i = .relayMark1 ∧ marker = Config.mark1 ∧ n = 1#8))
      (hvisit : s.framer.visits marker = true) (hzero : s.framer.budZero = true) :
      Effect i s ((s.setFramer { s.framer with bud := s.framer.bud + n }).advanceScan false)
  | sentEox {s : State} {e : Env} (hvisit : s.framer.visits Config.eox = true) (hanswer : s.env.ReadyIs true e) :
      Effect .relayEox s (((((s.setEnv e).call (.transmitReady true)).call (.transmitByte Config.eox)).setFramer
        { s.framer with bud := 0#8 }).advanceScan true)
  | sentByte {s : State} {e : Env} {b : Byte} (hrelay : s.framer.relaysByte b = true)
      (hanswer : s.env.ReadyIs true e) :
      Effect (.relayByte b) s (((((s.setEnv e).call (.transmitReady true)).call (.transmitByte b)).setFramer
        s.framer.spend).advanceScan false)
  | notReady {i : Instr} {s : State} {e : Env}
      (hi : (i = .relayEox ∧ s.framer.visits Config.eox = true) ∨ ∃ b, i = .relayByte b ∧ s.framer.relaysByte b = true)
      (hanswer : s.env.ReadyIs false e) : Effect i s ((s.setEnv e).call (.transmitReady false))

/-- An instruction that takes neither a delivery nor a report, and whose state is unchanged. -/
theorem Effect.of_eq {i : Instr} {s t : State} (e : t = s) (hrx : ∀ buf, i ≠ .rxbuf buf) (htx : i ≠ .txDone) :
    Effect i s t := e ▸ .unmoved hrx htx

theorem effect_of_parse {i : Instr} {b : Byte} {s t : State} (hb : parseOperand i = some b) (h : exec i s = .next t) :
    Effect i s t := by
  rw [exec_of_parseOperand hb, parseFrame_next] at h
  obtain ⟨-, ⟨-, rfl⟩ | ⟨hidle, ⟨f, hunit, rfl⟩ | ⟨r, p, hunit, rfl⟩⟩⟩ := h
  · exact .unmoved (by rintro _ rfl; cases hb) (by rintro rfl; cases hb)
  · exact .parseFault hb hidle hunit
  · exact .parsed hb hidle hunit

theorem effect_of_encode {i : Instr} {n : Nibble} {d1 d2 : Byte} {s t : State}
    (hn : encodeOperands i = some (n, d1, d2)) (h : exec i s = .next t) : Effect i s t := by
  have hrx : ∀ buf, i ≠ .rxbuf buf := by rintro _ rfl; cases hn
  have htx : i ≠ .txDone := by rintro rfl; cases hn
  obtain ⟨cin, st, e1, e2, hpacket, hx⟩ | hx := exec_of_encodeOperands hn <;> rw [hx] at h
  · obtain ⟨-, ⟨-, rfl⟩ | ⟨hidle, hempty, rfl⟩⟩ := encodeMapped_next.1 h
    · exact .unmoved hrx htx
    · exact .built hn hpacket hidle hempty
  · exact .of_eq (encodeUnmapped_next.1 h).2 hrx htx

theorem effect_of_marker {i : Instr} {marker : Byte} {n : Budget} {s t : State}
    (hi : (i = .relayMark3 ∧ marker = Config.mark3 ∧ n = 3#8) ∨ (i = .relayMark1 ∧ marker = Config.mark1 ∧ n = 1#8))
    (h : relayMarker marker n s = .next t) : Effect i s t := by
  obtain ⟨-, ⟨-, rfl⟩ | ⟨hvisit, hzero, rfl⟩⟩ := relayMarker_next.1 h
  · obtain ⟨rfl, -⟩ | ⟨rfl, -⟩ := hi <;> exact .unmoved nofun nofun
  · exact .marked hi hvisit hzero

/-- Whatever instruction answers a next state, its effect is one of the listed ones. -/
theorem effect_of_exec {i : Instr} {s t : State} (h : exec i s = .next t) : Effect i s t := by
  cases i with
  | parseData | parseNoteOff | parseNoteOn | parsePolyKp | parseCc | parsePc | parseChp | parsePb | parseSox | parseMtc
  | parseSpp | parseSs | parseUndef | parseTune | parseEox | parseRt => exact effect_of_parse rfl h
  | encodeNoteOff | encodeNoteOn | encodePb | encodeNop07 | encodeNopAB | encodeNopCD | encodeNopF =>
    exact effect_of_encode rfl h
  | setFilter m =>
    rw [exec, execSetFilter, unlessFaulted_next, unlessRelayBusy_next] at h
    obtain ⟨-, ⟨-, rfl⟩ | ⟨hidle, h⟩⟩ := h
    · exact .unmoved nofun nofun
    · cases h; exact .staged hidle
  | rxbuf buf =>
    obtain ⟨-, ⟨hidle, rfl⟩ | ⟨hscan, rfl⟩⟩ := execRxbuf_next.1 h
    · exact .latched hidle
    · exact .overrun hscan
  | txDone =>
    obtain ⟨-, ⟨hflight, rfl⟩ | ⟨hflight, rfl⟩⟩ := execTxDone_next.1 h
    · exact .reported hflight
    · exact .spurious hflight
  | reset =>
    rw [exec, execReset, unlessFaulted_next] at h
    cases h.2
    exact .reset
  | relayMark3 => exact effect_of_marker (.inl ⟨rfl, rfl, rfl⟩) h
  | relayMark1 => exact effect_of_marker (.inr ⟨rfl, rfl, rfl⟩) h
  | relayEox =>
    obtain ⟨-, ⟨-, rfl⟩ | ⟨hvisit, h⟩⟩ := execRelayEox_next.1 h
    · exact .unmoved nofun nofun
    · obtain ⟨e, ⟨hanswer, rfl⟩ | ⟨hanswer, rfl⟩⟩ := relayEmit_next.1 h
      · exact .sentEox hvisit hanswer
      · exact .notReady (.inl ⟨rfl, hvisit⟩) hanswer
  | relayByte b =>
    obtain ⟨-, ⟨-, rfl⟩ | ⟨hrelay, h⟩⟩ := execRelayByte_next.1 h
    · exact .unmoved nofun nofun
    · obtain ⟨e, ⟨hanswer, rfl⟩ | ⟨hanswer, rfl⟩⟩ := relayEmit_next.1 h
      · exact .sentByte hrelay hanswer
      · exact .notReady (.inr ⟨b, rfl, hrelay⟩) hanswer
  | txSend =>
    obtain ⟨-, ⟨-, rfl⟩ | ⟨henabled, e, ⟨hanswer, rfl⟩ | ⟨hanswer, rfl⟩⟩⟩ := execTxSend_next.1 h
    · exact .unmoved nofun nofun
    · exact .accepted henabled hanswer
    · exact .refusedBusy henabled hanswer

end Sys2Proof.Machine
end

section
/-! PROOFS. The Parser unit's invariants (10_state.md R25): every PARSE answers and keeps them, and so every step does. -/

namespace Sys2Proof.Machine

/-- PARSE of any byte answers on the unit, and keeps R25: the commit and `WAS_SX` write no register R25 speaks of. -/
theorem parseUnit_answersInv (b : Byte) {p : Parser} (hp : p.Inv) : AnswersInv (parseUnit (dispatchByte b) p) := by
  obtain ⟨r, q, hq, hinv⟩ := dispatchByte_answersInv b (p := { p with flt := p.committedFlt }) hp
  exact ⟨_, _, parseUnit_ok.2 ⟨r, q, hq, rfl, rfl⟩, hinv⟩

theorem parseUnit_ne_error {b : Byte} {p : Parser} {f : Fault} (hp : p.Inv) :
    parseUnit (dispatchByte b) p ≠ .error f := by
  obtain ⟨r, q, hq, -⟩ := parseUnit_answersInv b hp
  simp [hq]

theorem inv_of_parseUnit {b : Byte} {p q : Parser} {r : Result} (hp : p.Inv)
    (h : parseUnit (dispatchByte b) p = .ok (r, q)) : q.Inv := by
  obtain ⟨r', q', hq, hinv⟩ := parseUnit_answersInv b hp
  cases h.symm.trans hq
  exact hinv

/-- RESET leaves the Parser unit with no message, no running status and no SysEx. -/
theorem Parser.resetRegs_inv (p : Parser) : p.resetRegs.Inv :=
  ⟨.inl rfl, by simp, by simp, by simp⟩

/-- Of all the effects only PARSE, SETFILTER and RESET write the Parser unit. -/
theorem exec_keeps_parserInv (i : Instr) (s t : State) (hs : s.parser.Inv) (h : exec i s = .next t) :
    t.parser.Inv := by
  cases effect_of_exec h with
  | parsed hb hidle hunit => exact inv_of_parseUnit hs hunit
  | staged => exact hs
  | reset => exact s.parser.resetRegs_inv
  | unmoved | parseFault | built | accepted | refusedBusy | reported | spurious | latched | overrun | notReady => exact hs
  | marked | sentEox | sentByte => rw [advanceScan_parser]; exact hs

/-- Settles O33: no instruction breaks R25, and a step is one instruction or none. -/
theorem parserInvariantIsKept : Obligations.ParserInvariantIsKept := fun _ _ hs h =>
  step_keeps (P := fun s => s.parser.Inv) (fun _ _ hp => hp) exec_keeps_parserInv hs h

end Sys2Proof.Machine
end

section
/-! PROOFS. The Framer unit's invariants (10_state.md R35). Index plus budget stays even because a marker adds an odd
number where the index goes up by one, and an emitted byte takes one from a budget that is not negative. -/

namespace Sys2Proof.Machine

/-- R35 between a RELAY step's budget write and the tail of R117: the parity is that of the index the scan goes on to. -/
structure Framer.AheadInv (f : Framer) : Prop where
  bounds : -128 ≤ f.bud.toInt ∧ f.bud.toInt ≤ 3
  packet : f.txs = true → PacketOk f.txp
  flagged : f.bud.toInt < 0 → f.bufUf = true
  parity : 0 ≤ f.bud.toInt → (f.rlyIdx.toNat + 1 + f.bud.toInt) % 2 = 0
  scan : f.rlyAct = true

/-- The scan goes on one index further, or ends after index 63, where index plus 1 is even. -/
theorem advanceScan_inv {s : State} (hs : s.framer.AheadInv) : (s.advanceScan false).framer.Inv := by
  obtain ⟨hbounds, hpacket, hflagged, hparity, hscan⟩ := hs
  rcases advanceScan_cases s false with ⟨hlast, e⟩ | ⟨-, hne, e⟩
  · have hidx : s.framer.rlyIdx = 63#6 := by simpa using hlast
    have heven : 0 ≤ s.framer.bud.toInt → s.framer.bud.toInt % 2 = 0 := by
      intro hb
      have := hparity hb
      simp only [hidx, BitVec.toNat_ofNat] at this
      omega
    rw [e]
    exact ⟨hbounds, hpacket, hflagged, by simpa using heven, fun _ => rfl⟩
  · have hgo : (s.advanceScan false).framer.rlyAct = true := by rw [e]; exact hscan
    have hidx := advanceScan_moves hgo
    rw [e] at hidx ⊢
    refine ⟨hbounds, hpacket, hflagged, fun hb => ?_, fun hn => ?_⟩
    · rw [hidx]
      exact_mod_cast hparity hb
    · exact absurd (hscan.symm.trans hn) (by simp)

/-- A marker at budget 0 sets an odd budget. -/
theorem aheadInv_of_marker {f : Framer} {n : Budget} (hf : f.Inv) (hscan : f.rlyAct = true)
    (hzero : f.budZero = true) (hn : n = 3#8 ∨ n = 1#8) : Framer.AheadInv { f with bud := f.bud + n } := by
  obtain ⟨-, hpacket, -, hparity, -⟩ := hf
  have hbud : f.bud = 0#8 := by simpa [Framer.budZero] using hzero
  have hidx : (f.rlyIdx.toNat : Int) % 2 = 0 := by simpa [hbud] using hparity
  have hnew : (f.bud + n).toInt = 3 ∨ (f.bud + n).toInt = 1 := by
    rw [hbud]
    rcases hn with rfl | rfl
    · exact .inl (by decide)
    · exact .inr (by decide)
  constructor <;> dsimp only
  · omega
  · exact hpacket
  · omega
  · omega
  · exact hscan

theorem satDec_of_nonneg : ∀ x : Budget, 0 ≤ x.toInt → (satDec x).toInt = x.toInt - 1 := by decide

/-- An emitted byte takes one from a budget that stays at 0 or above, and flags any other. -/
theorem aheadInv_spend {f : Framer} (hf : f.Inv) (hscan : f.rlyAct = true) : f.spend.AheadInv := by
  obtain ⟨⟨-, hmax⟩, hpacket, -, hparity, -⟩ := hf
  obtain ⟨hle, hge, hmin⟩ := satDec_bounds f.bud
  refine ⟨⟨hmin, hle.trans hmax⟩, hpacket, fun hneg => ?_, fun hnonneg => ?_, hscan⟩
  · rw [Framer.spend_bud] at hneg
    simp [hneg]
  · rw [Framer.spend_bud] at hnonneg
    have hstep := satDec_of_nonneg f.bud (by omega)
    have := hparity (by omega)
    rw [Framer.spend_bud, Framer.spend_rlyIdx]
    omega

theorem scan_of_relaysByte {f : Framer} {b : Byte} (h : f.relaysByte b = true) : f.rlyAct = true := by
  simp only [Framer.relaysByte, Bool.and_eq_true] at h
  obtain ⟨⟨hvisit, -⟩, -⟩ := h
  exact (visits_iff.1 hvisit).1

/-- RESET and a relayed End-of-Exclusive leave the budget and the index at 0. -/
theorem framerInv_of_zero {f : Framer} (hbud : f.bud = 0#8) (hidx : f.rlyIdx = 0#6)
    (hpacket : f.txs = true → PacketOk f.txp) : f.Inv := by
  refine ⟨?_, hpacket, ?_, ?_, fun _ => hidx⟩ <;> simp [hbud, hidx, Config.budMin]

/-- What a step does to the packet slot and the scan, against R35. -/
theorem exec_keeps_framerInv (i : Instr) (s t : State) (hs : s.framer.Inv) (h : exec i s = .next t) :
    t.framer.Inv := by
  obtain ⟨hbounds, hpacket, hflagged, hparity, hindex⟩ := id hs
  cases effect_of_exec h with
  | unmoved | parsed | parseFault | staged | refusedBusy | reported | spurious | overrun | notReady => exact hs
  | built hn hok => exact ⟨hbounds, fun _ => hok, hflagged, hparity, hindex⟩
  | accepted => exact ⟨hbounds, nofun, hflagged, hparity, hindex⟩
  | latched hidle =>
    have hparity : 0 ≤ s.framer.bud.toInt → (0 + s.framer.bud.toInt) % 2 = 0 := by simpa [hindex hidle] using hparity
    exact ⟨hbounds, hpacket, hflagged, hparity, nofun⟩
  | reset => exact framerInv_of_zero rfl rfl nofun
  | marked hi hvisit hzero =>
    refine advanceScan_inv (aheadInv_of_marker hs (visits_iff.1 hvisit).1 hzero ?_)
    exact hi.imp (·.2.2) (·.2.2)
  | sentEox => exact framerInv_of_zero rfl rfl hpacket
  | sentByte hrelay => exact advanceScan_inv (aheadInv_spend hs (scan_of_relaysByte hrelay))

/-- Settles O47: no instruction breaks R35, and a step is one instruction or none. -/
theorem framerInvariantIsKept : Obligations.FramerInvariantIsKept := fun _ _ hs h =>
  step_keeps (P := fun s => s.framer.Inv) (fun _ _ hf => hf) exec_keeps_framerInv hs h

end Sys2Proof.Machine
end

section
/-! PROOFS. The packets offered to USB (42_encoder.md R111): a call or a write of the Framer unit keeps them the encoder's
when what it adds is. -/

namespace Sys2Proof.Machine

theorem packetsOk_call {s : State} {c : Call} (hs : s.PacketsOk) (hc : ∀ p a, c = .trySend p a → PacketOk p) :
    (s.call c).PacketsOk := by
  obtain ⟨hcalls, hslot⟩ := hs
  refine ⟨fun p a hm => ?_, hslot⟩
  rw [State.call_calls, List.mem_append, List.mem_singleton] at hm
  rcases hm with hm | hm
  · exact hcalls p a hm
  · exact hc p a hm.symm

theorem packetsOk_setFramer {s : State} {f : Framer} (hs : s.PacketsOk) (hf : f.txs = true → PacketOk f.txp) :
    (s.setFramer f).PacketsOk := ⟨hs.1, hf⟩

theorem packetsOk_advanceScan {s : State} (stop : Bool) (hs : s.PacketsOk) : (s.advanceScan stop).PacketsOk := by
  rcases advanceScan_cases s stop with ⟨-, e⟩ | ⟨-, -, e⟩ <;> rw [e]
  · exact packetsOk_call (packetsOk_setFramer hs hs.2) nofun
  · exact packetsOk_setFramer hs hs.2

/-- An emitting step that goes through makes two calls, neither of them an offer to USB, and leaves the slot. -/
theorem packetsOk_emit {s : State} {e : Env} {b : Byte} {f : Framer} (stop : Bool) (hs : s.PacketsOk)
    (hf : f.txs = true → PacketOk f.txp) :
    (((((s.setEnv e).call (.transmitReady true)).call (.transmitByte b)).setFramer f).advanceScan stop).PacketsOk := by
  have hready : ((s.setEnv e).call (.transmitReady true)).PacketsOk := packetsOk_call hs nofun
  exact packetsOk_advanceScan stop (packetsOk_setFramer (packetsOk_call hready nofun) hf)

/-- An offer to USB is of the packet in the slot. -/
theorem packetsOk_offer {s : State} {e : Env} {a : SendAnswer} (hs : s.PacketsOk)
    (henabled : s.framer.sendEnabled = true) : ((s.setEnv e).call (.trySend s.framer.txp a)).PacketsOk := by
  have hfull : s.framer.txs = true := by
    simp only [Framer.sendEnabled, Bool.and_eq_true] at henabled
    exact henabled.1.1
  refine packetsOk_call hs ?_
  rintro _ _ ⟨⟩
  exact hs.2 hfull

theorem exec_keeps_packetsOk (i : Instr) (s t : State) (hs : s.PacketsOk) (h : exec i s = .next t) : t.PacketsOk := by
  cases effect_of_exec h with
  | unmoved | parsed | parseFault | staged | reported | spurious | latched | overrun => exact hs
  | built hn hpacket => exact packetsOk_setFramer hs fun _ => hpacket
  | accepted henabled => exact packetsOk_setFramer (packetsOk_offer hs henabled) nofun
  | refusedBusy henabled => exact packetsOk_offer hs henabled
  | reset => exact ⟨hs.1, nofun⟩
  | marked => exact packetsOk_advanceScan false (packetsOk_setFramer hs hs.2)
  | sentEox => exact packetsOk_emit true hs hs.2
  | sentByte => exact packetsOk_emit false hs hs.2
  | notReady => exact packetsOk_call hs nofun

/-- Settles O39: no instruction puts another packet in the slot or offers one that is not there. -/
theorem noZeroVelocityNoteOnIsOffered : Obligations.NoZeroVelocityNoteOnIsOffered := fun _ _ hs h =>
  step_keeps (P := State.PacketsOk) (fun _ _ hp => hp) exec_keeps_packetsOk hs h

end Sys2Proof.Machine
end

section
/-! PROOFS. Who writes which unit (10_state.md R12), what a scan holds (60_exceptions.md R139) and what records a fault
(R136). -/

namespace Sys2Proof.Machine

/-! ## The two units -/

/-- The instructions of the Parser unit: PARSE and SETFILTER. -/
def Instr.isParser (i : Instr) : Prop := (∃ b, parseOperand i = some b) ∨ ∃ m, i = .setFilter m

theorem parseOperand_of_encodeOperands {i : Instr} {x : Nibble × Byte × Byte} (h : encodeOperands i = some x) :
    parseOperand i = none := by
  cases i with
  | encodeNoteOff | encodeNoteOn | encodePb | encodeNop07 | encodeNopAB | encodeNopCD | encodeNopF => rfl
  | _ => cases h

theorem not_isParser_of_encode {i : Instr} {x : Nibble × Byte × Byte} (h : encodeOperands i = some x) :
    ¬ Instr.isParser i := by
  rintro (⟨b, hb⟩ | ⟨m, rfl⟩)
  · exact absurd (hb.symm.trans (parseOperand_of_encodeOperands h)) nofun
  · cases h

theorem not_isParser_of_internal {i : Instr}
    (h : i = .relayMark3 ∨ i = .relayMark1 ∨ i = .relayEox ∨ (∃ b, i = .relayByte b) ∨ i = .txSend) :
    ¬ Instr.isParser i := by
  rcases h with rfl | rfl | rfl | ⟨b, rfl⟩ | rfl <;> simp [Instr.isParser, parseOperand]

/-- Settles O52: each effect writes one unit alone, RESET apart. -/
theorem unitsShareNoRegister : Obligations.UnitsShareNoRegister := by
  intro i s t h hreset
  change (Instr.isParser i → _) ∧ (¬ Instr.isParser i → _)
  cases effect_of_exec h with
  | unmoved => exact ⟨fun _ => ⟨rfl, rfl, rfl⟩, fun _ => ⟨rfl, rfl⟩⟩
  | parsed hb | parseFault hb => exact ⟨fun _ => ⟨rfl, rfl, rfl⟩, fun hn => absurd (.inl ⟨_, hb⟩) hn⟩
  | staged => exact ⟨fun _ => ⟨rfl, rfl, rfl⟩, fun hn => absurd (.inr ⟨_, rfl⟩) hn⟩
  | built hn => exact ⟨fun hp => absurd hp (not_isParser_of_encode hn), fun _ => ⟨rfl, rfl⟩⟩
  | accepted | refusedBusy =>
    exact ⟨fun hp => absurd hp (not_isParser_of_internal (by simp)), fun _ => ⟨rfl, rfl⟩⟩
  | reported | spurious | latched | overrun =>
    exact ⟨fun hp => absurd hp (by simp [Instr.isParser, parseOperand]), fun _ => ⟨rfl, rfl⟩⟩
  | reset => exact absurd rfl hreset
  | marked hi =>
    have hn : ¬ Instr.isParser i := not_isParser_of_internal (by tauto)
    exact ⟨fun hp => absurd hp hn, fun _ => by simp⟩
  | sentEox | sentByte =>
    exact ⟨fun hp => absurd hp (not_isParser_of_internal (by simp)), fun _ => by simp⟩
  | notReady hi =>
    have hn : ¬ Instr.isParser i := not_isParser_of_internal (by tauto)
    exact ⟨fun hp => absurd hp hn, fun _ => ⟨rfl, rfl⟩⟩

/-! ## During a scan -/

/-- Settles O53: PARSE, ENCODE and SETFILTER stand behind the hold RelayBusy, TXSEND behind its enabling condition. -/
theorem scanHoldsTheTaskLoop : Obligations.ScanHoldsTheTaskLoop := by
  intro i s hf hscan
  refine ⟨?_, ?_⟩
  · rintro (⟨b, hb⟩ | ⟨n, d1, d2, hn⟩ | ⟨m, rfl⟩ | rfl)
    · rw [exec_of_parseOperand hb]
      exact parseFrame_next.2 ⟨hf, .inl ⟨hscan, rfl⟩⟩
    · obtain ⟨cin, st, e1, e2, -, hx⟩ | hx := exec_of_encodeOperands hn <;> rw [hx]
      · exact encodeMapped_next.2 ⟨hf, .inl ⟨.inl hscan, rfl⟩⟩
      · exact encodeUnmapped_next.2 ⟨hf, rfl⟩
    · rw [exec, execSetFilter, unlessFaulted_of_none hf, unlessRelayBusy_of_busy hscan]
    · exact execTxSend_next.2 ⟨hf, .inl ⟨by simp [Framer.sendEnabled, hscan], rfl⟩⟩
  · rintro buf rfl
    exact execRxbuf_next.2 ⟨hf, .inr ⟨hscan, rfl⟩⟩

/-! ## Faults -/

/-- Settles O54: `step` and every instruction test the recorded fault first. -/
theorem faultedStateHasNoStep : Obligations.FaultedStateHasNoStep := fun s f hf =>
  ⟨by rw [step, stepMachine, unlessFaulted_of_some hf], fun i => (exec_guarded i s).1 f hf⟩

/-- What records a fault in a state that meets R25 (60_exceptions.md R136). -/
def FaultCause (i : Instr) (s : State) (f : Fault) : Prop :=
  (f = .rxOverrun ∧ s.framer.rlyAct = true ∧ ∃ buf, i = .rxbuf buf) ∨
  (f = .txDoneSpurious ∧ s.framer.txInfl = false ∧ i = .txDone)

theorem not_faultCause {i : Instr} {s : State} (hrx : ∀ buf, i ≠ .rxbuf buf) (htx : i ≠ .txDone) (f : Fault) :
    ¬ FaultCause i s f := by
  rintro (⟨-, -, buf, hi⟩ | ⟨-, -, hi⟩)
  · exact hrx buf hi
  · exact htx hi

theorem faultCause_rxbuf {buf : Buffer} {s : State} {f : Fault} :
    FaultCause (.rxbuf buf) s f ↔ f = .rxOverrun ∧ s.framer.rlyAct = true := by
  simp [FaultCause]

theorem faultCause_txDone {s : State} {f : Fault} :
    FaultCause .txDone s f ↔ f = .txDoneSpurious ∧ s.framer.txInfl = false := by
  simp [FaultCause]

/-- In a state that meets R25 only a delivery or a report can record a fault. -/
theorem not_faulted_of_effect {i : Instr} {s t : State} (h : Effect i s t) (hf : s.faulted = none)
    (hp : s.parser.Inv) (hrx : ∀ buf, i ≠ .rxbuf buf) (htx : i ≠ .txDone) : t.faulted = none := by
  cases h with
  | unmoved | parsed | staged | built | accepted | refusedBusy | reset | notReady => exact hf
  | parseFault hb hidle hunit => exact absurd hunit (parseUnit_ne_error hp)
  | reported | spurious => exact absurd rfl htx
  | latched | overrun => exact absurd rfl (hrx _)
  | marked | sentEox | sentByte => rw [advanceScan_faulted]; exact hf

/-- Settles O55: RXBUF and TXDONE by their own inversions, every other instruction by its effect. -/
theorem onlyBrokenDutiesFault : Obligations.OnlyBrokenDutiesFault := by
  intro i s hf hp
  obtain ⟨t, ht⟩ := (exec_guarded i s).2 hf
  refine ⟨t, ht, fun f => ?_⟩
  change _ ↔ FaultCause i s f
  by_cases hrx : ∃ buf, i = .rxbuf buf
  · obtain ⟨buf, rfl⟩ := hrx
    rw [faultCause_rxbuf]
    obtain ⟨-, ⟨hidle, rfl⟩ | ⟨hscan, rfl⟩⟩ := execRxbuf_next.1 ht
    · simp [hf, hidle]
    · simp [hscan, eq_comm]
  by_cases htx : i = .txDone
  · subst htx
    rw [faultCause_txDone]
    obtain ⟨-, ⟨hflight, rfl⟩ | ⟨hflight, rfl⟩⟩ := execTxDone_next.1 ht
    · simp [hf, hflight]
    · simp [hflight, eq_comm]
  · have hrx : ∀ buf, i ≠ .rxbuf buf := fun buf e => hrx ⟨buf, e⟩
    have hnone := not_faulted_of_effect (effect_of_exec ht) hf hp hrx htx
    exact ⟨fun hsome => absurd (hnone.symm.trans hsome) nofun, fun hc => absurd hc (not_faultCause hrx htx f)⟩

end Sys2Proof.Machine
end

section
/-! PROOFS. The results of PARSE (30_encoding.md R61): a completion has the bytes, the length and the category the table
gives its status byte. -/

namespace Sys2Proof.Machine

/-- The category of a status byte is one-hot. -/
theorem categoryOf_oneHot {b : Byte} {c : Nibble} (h : categoryOf b = .ok c) :
    c = channelVoice ∨ c = systemCommon ∨ c = realTime ∨ c = sysExCat := by
  unfold categoryOf at h
  repeat' split at h
  all_goals cases h
  · exact .inl rfl
  · exact .inr (.inr (.inr rfl))
  · exact .inr (.inl rfl)
  · exact .inr (.inr (.inl rfl))

theorem lengthOf_ne_zero {b : Byte} {n : BitVec 2} (h : lengthOf b = .ok n) : n ≠ 0#2 := by
  rcases (lengthOf_ok h).2 with rfl | rfl | rfl <;> decide

/-- Every result the procedure can answer is one R61 allows. -/
def ReturnsLegal (x : ParseStep) : Prop := ∀ r q, x = .ok (r, q) → r.wf = true

theorem returnsLegal_ok {r : Result} {q : Parser} (h : r.wf = true) : ReturnsLegal (.ok (r, q)) := by
  rintro _ _ ⟨⟩
  exact h

theorem returnsLegal_error (f : Fault) : ReturnsLegal (.error f) := nofun

theorem finish_returnsLegal {p : Parser} (hreq : p.req ≠ 0#2) : ReturnsLegal (finish p) := by
  unfold finish
  split
  · exact returnsLegal_error _
  · rename_i c hc
    have hlen : p.req.toNat ≤ 3 := by have := p.req.isLt; omega
    exact returnsLegal_ok (by simpa [Result.wf, hreq, hlen, or_assoc] using categoryOf_oneHot hc)

theorem startStatus_returnsLegal (b : Byte) (p : Parser) : ReturnsLegal (startStatus b p) := by
  unfold startStatus
  split
  · exact returnsLegal_error _
  · rename_i n hn
    dsimp only
    split
    · exact finish_returnsLegal (lengthOf_ne_zero hn)
    · exact returnsLegal_ok rfl

theorem appendByte_returnsLegal (b : Byte) {p : Parser} (hreq : p.req ≠ 0#2) : ReturnsLegal (appendByte b p) := by
  unfold appendByte
  split
  · exact returnsLegal_error _
  · dsimp only
    split
    · exact finish_returnsLegal hreq
    · exact returnsLegal_ok rfl

/-- A message in progress has the length its status byte has in the table (10_state.md R25 item 2). -/
theorem req_ne_zero_of_inv {p : Parser} (hp : p.Inv) (hn : p.accN ≠ 0#2) : p.req ≠ 0#2 := by
  obtain ⟨-, hmessage, -, -⟩ := hp
  obtain ⟨-, -, hlen, -⟩ := hmessage hn
  exact lengthOf_ne_zero hlen

theorem appendData_returnsLegal (b : Byte) {p : Parser} (hp : p.Inv) : ReturnsLegal (appendData b p) := by
  unfold appendData
  split
  · split
    · exact returnsLegal_ok rfl
    · split
      · exact returnsLegal_error _
      · rename_i n hn
        split
        · exact returnsLegal_ok rfl
        · exact appendByte_returnsLegal b (lengthOf_ne_zero hn)
  · rename_i hn
    exact appendByte_returnsLegal b (req_ne_zero_of_inv hp hn)

theorem unterminated_returnsLegal (b : Byte) (p : Parser) : ReturnsLegal (unterminated b p) := by
  unfold unterminated
  dsimp only
  split
  · exact returnsLegal_error _
  · exact returnsLegal_ok rfl

theorem eoxBranch_returnsLegal (p : Parser) : ReturnsLegal (eoxBranch p) := by
  unfold eoxBranch
  split <;> exact returnsLegal_ok rfl

theorem dataBranch_returnsLegal (b : Byte) {p : Parser} (hp : p.Inv) : ReturnsLegal (dataBranch b p) := by
  unfold dataBranch
  split
  · exact returnsLegal_ok rfl
  · exact appendData_returnsLegal b hp

theorem dispatchByte_returnsLegal (b : Byte) {p : Parser} (hp : p.Inv) : ReturnsLegal (dispatchByte b p) := by
  unfold dispatchByte
  repeat' split
  · exact returnsLegal_ok rfl
  · exact eoxBranch_returnsLegal p
  · exact unterminated_returnsLegal b p
  · exact dataBranch_returnsLegal b hp
  · exact returnsLegal_ok rfl
  · exact returnsLegal_ok rfl
  · exact startStatus_returnsLegal b p
  · exact appendData_returnsLegal b hp

/-- The filter hides a result or leaves it. -/
theorem surface_wf {r : Result} (flt : Nibble) (h : r.wf = true) : (surface flt r).wf = true := by
  unfold surface
  split
  · split
    · exact h
    · rfl
  · split <;> rfl
  · rfl
  · rfl

theorem parseUnit_returnsLegal (b : Byte) {p : Parser} (hp : p.Inv) : ReturnsLegal (parseUnit (dispatchByte b) p) := by
  intro r q h
  obtain ⟨r', q', hbranch, rfl, -⟩ := parseUnit_ok.1 h
  exact surface_wf _ (dispatchByte_returnsLegal b (p := { p with flt := p.committedFlt }) hp r' q' hbranch)

/-- Settles O60: the one result a PARSE appends is that of the unit. -/
theorem returnedResultsAreLegal : Obligations.ReturnedResultsAreLegal := by
  intro i b s t r hb hp h hr
  rw [exec_of_parseOperand hb] at h
  obtain ⟨-, ⟨-, rfl⟩ | ⟨-, ⟨f, -, rfl⟩ | ⟨r', q, hunit, rfl⟩⟩⟩ := parseFrame_next.1 h
  · simp at hr
  · simp at hr
  · obtain rfl : r' = r := by simpa using hr
    exact parseUnit_returnsLegal b hp r' q hunit

end Sys2Proof.Machine
end

section
/-! PROOFS. The derived outputs (10_state.md R23, R24, R34) and the state after reset (70_reset_and_hazards.md R149). -/

namespace Sys2Proof.Machine

/-- A running status is channel voice or system common (30_encoding.md R58). -/
theorem categoryOf_runningStatus {p : Parser} (hlegal : p.RsLegal) (hrs : p.rs ≠ 0x00#8) :
    categoryOf p.rs = .ok channelVoice ∨ categoryOf p.rs = .ok systemCommon := by
  have table : ∀ b : Byte, (0x80 ≤ b.toNat ∧ b.toNat ≤ 0xEF → categoryOf b = .ok channelVoice) ∧
      (0xF1 ≤ b.toNat ∧ b.toNat ≤ 0xF6 → categoryOf b = .ok systemCommon) := by decide
  rcases hlegal with hnone | hvoice | hcommon
  · exact absurd hnone hrs
  · exact .inl ((table p.rs).1 hvoice)
  · exact .inr ((table p.rs).2 hcommon)

theorem curCat_of_message {p : Parser} (hs : p.sxs ≠ .active) (hn : p.accN ≠ 0#2) :
    p.curCat = categoryOf p.acc[0] := by
  have hx : p.isSx = false := by simpa [Parser.isSx] using hs
  simp [Parser.curCat, hx, hn]

/-- Settles O12: the three outputs case by case, and R25 makes the first byte of a message its running status. -/
theorem derivedStatusOutputs : Obligations.DerivedStatusOutputs := by
  intro s
  refine ⟨isSx_iff s.parser, rfl, fun hs => ?_, curCat_of_message, fun hs hn => ?_, fun hinv hs hn => ?_⟩
  · exact if_pos ((isSx_iff s.parser).2 hs)
  · have hx : s.parser.isSx = false := by simpa [Parser.isSx] using hs
    simp [State.status, Parser.curCat, hx, hn]
  · obtain ⟨hlegal, hmessage, -, -⟩ := hinv
    obtain ⟨hrs, hfirst, -, -⟩ := hmessage hn
    have hcat := curCat_of_message hs hn
    rw [hfirst] at hcat
    exact (categoryOf_runningStatus hlegal hrs).imp hcat.trans hcat.trans

/-- Settles O14: the reset values as they stand, and the invariants of a machine that holds nothing. -/
theorem stateAfterReset : Obligations.StateAfterReset := by
  have hclean : State.reset.CleanEntry := ⟨rfl, rfl, rfl⟩
  have hparser : State.reset.parser.Inv := Parser.reset.resetRegs_inv
  have hframer : State.reset.framer.Inv := framerInv_of_zero rfl rfl nofun
  have hpackets : State.reset.PacketsOk := ⟨nofun, nofun⟩
  exact ⟨rfl, rfl, rfl, rfl, rfl, rfl, rfl, rfl, rfl, rfl, rfl, rfl, rfl, rfl, rfl, rfl, hclean,
    ⟨hparser, hframer⟩, hpackets⟩

end Sys2Proof.Machine
end

section
/-! PROOFS. The calls and results a step appends (20_memory.md R44, R47, R49): the sequences only grow, and a serial byte
is the one the relay visits. TXSEND and its call (42_encoder.md R112) stand here too. -/

namespace Sys2Proof.Machine

/-! ## The sequences only grow -/

/-- `t`'s sequences are `s`'s with at most one result and any calls appended. -/
def SequencesGrow (s t : State) : Prop :=
  ∃ (rs : List Result) (cs : List Call), t.log.results = s.log.results ++ rs ∧ rs.length ≤ 1 ∧
    t.log.calls = s.log.calls ++ cs

theorem grows_of_calls {s t : State} {cs : List Call} (hr : t.log.results = s.log.results)
    (hc : t.log.calls = s.log.calls ++ cs) : SequencesGrow s t := ⟨[], cs, by simp [hr], by simp, hc⟩

theorem grows_of_same {s t : State} (h : t.log = s.log) : SequencesGrow s t :=
  grows_of_calls (cs := []) (by rw [h]) (by simp [h])

/-- The tail of a RELAY step calls at most `requestNextBuffer`. -/
theorem advanceScan_calls (s : State) (stop : Bool) :
    ∃ cs, (s.advanceScan stop).log.calls = s.log.calls ++ cs ∧ serialBytes cs = [] := by
  rcases advanceScan_cases s stop with ⟨-, e⟩ | ⟨-, -, e⟩ <;> rw [e]
  · exact ⟨[.requestNextBuffer], rfl, rfl⟩
  · exact ⟨[], by simp, rfl⟩

theorem grows_advanceScan {s u : State} {cs : List Call} (stop : Bool) (hr : u.log.results = s.log.results)
    (hc : u.log.calls = s.log.calls ++ cs) : SequencesGrow s (u.advanceScan stop) := by
  obtain ⟨tail, htail, -⟩ := advanceScan_calls u stop
  refine grows_of_calls (cs := cs ++ tail) (by rw [advanceScan_results, hr]) ?_
  rw [htail, hc, List.append_assoc]

/-- PARSE returns a result, TXSEND and RELAY call, and no other effect is in the sequences. -/
theorem exec_grows {i : Instr} {s t : State} (h : exec i s = .next t) : SequencesGrow s t := by
  cases effect_of_exec h with
  | unmoved | parseFault | staged | built | reported | spurious | latched | overrun | reset => exact grows_of_same rfl
  | parsed => exact ⟨[_], [], rfl, Nat.le_refl 1, by simp⟩
  | accepted | refusedBusy | notReady => exact grows_of_calls rfl rfl
  | marked => exact grows_advanceScan false rfl (List.append_nil _).symm
  | sentEox | sentByte => exact grows_advanceScan _ rfl (List.append_assoc ..)

/-- Settles O57: a step is one instruction or none, and the inputs are not in the sequences. -/
theorem sequencesOnlyGrow : Obligations.SequencesOnlyGrow := by
  intro s t h
  obtain ⟨-, ⟨e, rfl⟩ | ⟨i, e, hx⟩⟩ := step_next h
  · exact grows_of_same rfl
  · exact exec_grows (s := s.setEnv e) hx

/-! ## The serial link -/

@[simp] theorem serialBytes_advanceScan (s : State) (stop : Bool) :
    serialBytes (s.advanceScan stop).log.calls = serialBytes s.log.calls := by
  obtain ⟨cs, hcs, hnone⟩ := advanceScan_calls s stop
  rw [hcs, serialBytes_append, hnone, List.append_nil]

/-- An emitting step that goes through passes its one byte to `transmitByte`. -/
theorem serialBytes_emit (s : State) (e : Env) (b : Byte) (f : Framer) (stop : Bool) :
    serialBytes (((((s.setEnv e).call (.transmitReady true)).call (.transmitByte b)).setFramer f).advanceScan
      stop).log.calls = serialBytes s.log.calls ++ [b] := by
  rw [serialBytes_advanceScan]
  simp [serialBytes]

theorem visits_of_relaysByte {f : Framer} {b : Byte} (h : f.relaysByte b = true) : f.visits b = true := by
  simp only [Framer.relaysByte, Bool.and_eq_true] at h
  exact h.1.1

/-- A byte that an emitting step sends while it visits it. -/
theorem serialBytes_of_visit {s t : State} {b : Byte} (hvisit : s.framer.visits b = true)
    (ht : serialBytes t.log.calls = serialBytes s.log.calls ++ [b]) :
    serialBytes t.log.calls = serialBytes s.log.calls ++ [s.framer.visited] ∧ s.framer.rlyAct = true := by
  obtain ⟨hscan, hb⟩ := visits_iff.1 hvisit
  exact ⟨by rw [ht, hb], hscan⟩

/-- Settles O50: of all the effects only RELAY.EOX and RELAY.BYTE on a ready link call `transmitByte`. -/
theorem serialBytesComeFromTheBuffer : Obligations.SerialBytesComeFromTheBuffer := by
  intro i s t h
  cases effect_of_exec h with
  | unmoved | parsed | parseFault | staged | built | reported | spurious | latched | overrun | reset => exact .inl rfl
  | accepted | refusedBusy | notReady => exact .inl (by simp [serialBytes])
  | marked => exact .inl (serialBytes_advanceScan _ _)
  | sentEox hvisit =>
    obtain ⟨hbytes, hscan⟩ := serialBytes_of_visit hvisit (serialBytes_emit ..)
    exact .inr ⟨hbytes, hscan, .inl rfl⟩
  | sentByte hrelay =>
    obtain ⟨hbytes, hscan⟩ := serialBytes_of_visit (visits_of_relaysByte hrelay) (serialBytes_emit ..)
    exact .inr ⟨hbytes, hscan, .inr ⟨_, rfl⟩⟩

/-! ## The hand-off -/

theorem sendEnabled_iff {f : Framer} :
    f.sendEnabled = true ↔ f.txs = true ∧ f.txInfl = false ∧ f.rlyAct = false := by
  simp [Framer.sendEnabled, and_assoc]

/-- Settles O37: TXSEND by its inversion, read from its cases to the step. -/
theorem txSendOffersTheSlot : Obligations.TxSendOffersTheSlot := by
  intro s hf
  refine ⟨fun hfull hflight hidle => ?_, fun hoff => ?_⟩
  · have henabled : s.framer.sendEnabled = true := sendEnabled_iff.2 ⟨hfull, hflight, hidle⟩
    exact ⟨fun e he => execTxSend_next.2 ⟨hf, .inr ⟨henabled, e, .inl ⟨he, rfl⟩⟩⟩,
      fun e he => execTxSend_next.2 ⟨hf, .inr ⟨henabled, e, .inr ⟨he, rfl⟩⟩⟩⟩
  · have hdisabled : s.framer.sendEnabled = false := by
      rcases hoff with h | h | h <;> simp [Framer.sendEnabled, h]
    exact execTxSend_next.2 ⟨hf, .inl ⟨hdisabled, rfl⟩⟩

end Sys2Proof.Machine
end

section
/-! PROOFS. A data byte of a message in progress (41_parser.md R82, R83, R100 case B). -/

namespace Sys2Proof.Machine

/-- R82: a data byte that is not the last goes to the next place of `ACC`. -/
theorem appendByte_more {b : Byte} {p : Parser} (hn : p.accN.toNat < 3) (hmore : p.accN + 1#2 ≠ p.req) :
    appendByte b p = .ok (.pending, { p with acc := p.acc.set p.accN.toNat b, accN := p.accN + 1#2 }) := by
  simp [appendByte, writeAcc_ok hn, hmore]

/-- R82: with its last data byte the message held in `ACC` finishes. -/
theorem appendByte_last {b : Byte} {p : Parser} (hn : p.accN.toNat < 3) (hlast : p.accN + 1#2 = p.req) :
    appendByte b p = finish { p with acc := p.acc.set p.accN.toNat b, accN := p.accN + 1#2 } := by
  simp [appendByte, writeAcc_ok hn, hlast]

/-- Surface, R81, on a completion. -/
theorem surface_complete (flt c : Nibble) (msg : List Byte) (n : BitVec 2) :
    surface flt (.complete msg n c) = if flt &&& c ≠ 0x0#4 then .complete msg n c else .pending := by
  simp [surface, passes]

/-- What R25 says of a message in progress: it holds the status byte and at most one data byte, fewer than it needs. -/
theorem message_of_inv {p : Parser} (hp : p.Inv) (hn : p.accN ≠ 0#2) :
    p.sxs ≠ .active ∧ p.acc[0] = p.rs ∧ p.accN.toNat < p.req.toNat ∧ (p.accN = 1#2 ∨ p.accN = 2#2) := by
  obtain ⟨-, hmessage, hsysEx, -⟩ := hp
  obtain ⟨-, hfirst, -, hlt⟩ := hmessage hn
  have hcount : ∀ n r : BitVec 2, n ≠ 0#2 → n.toNat < r.toNat → n = 1#2 ∨ n = 2#2 := by decide
  exact ⟨fun hs => hn (hsysEx hs).1, hfirst, hlt, hcount _ _ hn hlt⟩

/-- R77, R100 case B: in a message in progress no filter is committed, and the data byte is appended. -/
theorem execParseData_of_append {d : BitVec 7} {s : State} {r : Result} {q : Parser} (hf : s.faulted = none)
    (hidle : s.framer.rlyAct = false) (hp : s.parser.Inv) (hn : s.parser.accN ≠ 0#2)
    (h : appendByte (dataByte d) s.parser = .ok (r, q)) :
    exec (.parseData d) s = .next ((s.setParser { q with wasSx := false }).returnResult (surface q.flt r)) := by
  obtain ⟨hs, -, -, -⟩ := message_of_inv hp hn
  have hx : s.parser.isSx = false := by simpa [Parser.isSx] using hs
  have hbranch : dataBranch (dataByte d) { s.parser with flt := s.parser.committedFlt } = .ok (r, q) := by
    have hcommit : s.parser.committedFlt = s.parser.flt := if_neg fun hb => hn hb.1
    rw [hcommit, dataBranch, if_neg (by simp [hx]), appendData, if_neg hn]
    exact h
  exact parseFrame_ok hf hidle (parseUnit_ok.2 ⟨r, q, hbranch, rfl, by rw [hx]⟩)

/-- R83: the last data byte, with the status byte still first in `ACC`, completes the message under that status. -/
theorem execParseData_of_last {d : BitVec 7} {c : Nibble} {s : State} (hf : s.faulted = none)
    (hidle : s.framer.rlyAct = false) (hp : s.parser.Inv) (hn : s.parser.accN ≠ 0#2)
    (hc : categoryOf s.parser.rs = .ok c) (hlt : s.parser.accN.toNat < 3)
    (hlast : s.parser.accN + 1#2 = s.parser.req) :
    exec (.parseData d) s = .next { s with
      parser := { s.parser with
        acc := s.parser.acc.set s.parser.accN.toNat (dataByte d), accN := 0#2, lastCat := c, wasSx := false }
      log := { s.log with results := s.log.results ++
        [if s.parser.flt &&& c ≠ 0x0#4 then
          .complete ((s.parser.acc.set s.parser.accN.toNat (dataByte d)).toList.take s.parser.req.toNat) s.parser.req c
         else .pending] } } := by
  obtain ⟨-, hfirst, -, -⟩ := message_of_inv hp hn
  have hpos : s.parser.accN.toNat ≠ 0 := fun h => hn (BitVec.eq_of_toNat_eq h)
  have hstatus : categoryOf (s.parser.acc.set s.parser.accN.toNat (dataByte d))[0] = .ok c := by
    rw [Vector.getElem_set_ne _ _ hpos, hfirst, hc]
  have happend := (appendByte_last hlt hlast).trans (finish_ok hstatus)
  rw [execParseData_of_append hf hidle hp hn happend, surface_complete]
  rfl

/-- Settles O25: R25 leaves one or two bytes held, fewer than the message needs. -/
theorem dataByteContinuesTheMessage : Obligations.DataByteContinuesTheMessage := by
  intro d c s hf hidle hp hn hc
  obtain ⟨-, hfirst, hless, hcount⟩ := message_of_inv hp hn
  have hlt : s.parser.accN.toNat < 3 := by rcases hcount with h | h <;> simp [h]
  refine ⟨fun hmore => ?_, fun hone htwo => ?_, fun htwo => ?_⟩
  · have hnext : ∀ n r : BitVec 2, n ≠ 0#2 → n.toNat < r.toNat → n + 1#2 ≠ r → n = 1#2 ∧ r = 3#2 := by decide
    obtain ⟨hone, hthree⟩ := hnext _ _ hn hless hmore
    refine ⟨hone, hthree, ?_⟩
    rw [execParseData_of_append hf hidle hp hn (appendByte_more hlt hmore)]
    simp [hone, surface, State.setParser, State.returnResult]
  · rw [execParseData_of_last hf hidle hp hn hc hlt (by rw [hone, htwo]; rfl)]
    simp [hone, htwo, hfirst, acc_toList]
  · have hthree : s.parser.req = 3#2 := by
      have hroom : ∀ r : BitVec 2, (2#2).toNat < r.toNat → r = 3#2 := by decide
      exact hroom _ (htwo ▸ hless)
    rw [execParseData_of_last hf hidle hp hn hc hlt (by rw [htwo, hthree]; rfl)]
    simp [htwo, hthree, hfirst, acc_toList]

end Sys2Proof.Machine
end

section
/-! PROOFS. A whole relay scan (43_relay.md R117 to R122) against `scanBytes`. A visit of one byte does what `scanBytes`
of that byte alone says, and the scan is the visits one after the other up to an emitted 0xF7 or index 63. -/

namespace Sys2Proof.Machine

/-! ## The scan function, one byte at a time -/

/-- R120: the scan stops at an emitted 0xF7, whatever follows. -/
theorem scanBytes_eox (bs : List Byte) (bud : Budget) (uf : Bool) :
    scanBytes (0xF7#8 :: bs) bud uf = scanBytes [0xF7#8] bud uf := by
  simp [scanBytes]

/-- R117: any other byte is visited and the scan goes on with the budget and the flag it leaves. -/
theorem scanBytes_cons {b : Byte} (hb : b ≠ 0xF7#8) (bs : List Byte) (bud : Budget) (uf : Bool) :
    scanBytes (b :: bs) bud uf = (scanBytes bs (scanBytes [b] bud uf).bud (scanBytes [b] bud uf).bufUf).after
      (scanBytes [b] bud uf).emitted := by
  by_cases h3 : bud = 0#8 ∧ b = 0x04#8
  · simp [scanBytes, h3, ScanResult.after]
  by_cases h1 : bud = 0#8 ∧ b = 0x05#8
  · simp [scanBytes, h1, ScanResult.after]
  · simp [scanBytes, h3, h1, hb, ScanResult.after]

theorem visited_scanBytes_singleton (b : Byte) (bud : Budget) (uf : Bool) : (scanBytes [b] bud uf).visited = 1 := by
  unfold scanBytes
  repeat' split
  all_goals rfl

/-! ## What visits leave -/

/-- R125: each emitted byte is asked for and transmitted. -/
def relayCalls (bs : List Byte) : List Call := bs.flatMap fun b => [.transmitReady true, .transmitByte b]

@[simp] theorem relayCalls_append (a b : List Byte) : relayCalls (a ++ b) = relayCalls a ++ relayCalls b :=
  List.flatMap_append

@[simp] theorem serialBytes_relayCalls (bs : List Byte) : serialBytes (relayCalls bs) = bs := by
  induction bs with
  | nil => rfl
  | cons b bs ih => exact congrArg (b :: ·) ih

@[simp] theorem rearmCount_relayCalls (bs : List Byte) : rearmCount (relayCalls bs) = 0 := by
  induction bs with
  | nil => rfl
  | cons b bs ih => exact ih

/-- The state once visits did `r`, with the turns `restA` and the answers `restR` left, before the tail of R117. -/
def State.relayed (s : State) (r : ScanResult) (restA : List Agent) (restR : List Bool) : State :=
  { s with
    framer := { s.framer with bud := r.bud, bufUf := r.bufUf }
    env := { s.env with schedule := restA, readyAnswers := restR }
    log := { s.log with calls := s.log.calls ++ relayCalls r.emitted } }

/-- The state goes on to the next index. -/
def State.nextIndex (s : State) : State := s.setFramer { s.framer with rlyIdx := s.framer.rlyIdx + 1#6 }

/-- One visit and then the rest of the scan are the scan from that visit on. -/
theorem relayed_after (s : State) (v r : ScanResult) (a restA : List Agent) (q restR : List Bool) :
    ((s.relayed v a q).nextIndex.relayed r restA restR).endScan =
      (s.relayed (r.after v.emitted) restA restR).endScan := by
  simp [State.relayed, State.nextIndex, State.endScan, ScanResult.after, State.setFramer, State.call, Framer.endScan]

theorem advanceScan_last {s : State} {stop : Bool} (h : stop = true ∨ s.framer.rlyIdx = 63#6) :
    s.advanceScan stop = s.endScan := by
  rcases advanceScan_cases s stop with ⟨-, e⟩ | ⟨hstop, hidx, -⟩
  · exact e
  · simp [hstop, hidx] at h

theorem advanceScan_next {s : State} (h : s.framer.rlyIdx ≠ 63#6) : s.advanceScan false = s.nextIndex := by
  rcases advanceScan_cases s false with ⟨hlast, -⟩ | ⟨-, -, e⟩
  · simp [h] at hlast
  · exact e

/-! ## One visit -/

/-- R118, R119: a visited marker at budget 0 makes the budget `n`, and emits nothing. -/
theorem stepRelay_of_marker {marker : Byte} {n : Budget} {s : State} (hf : s.faulted = none)
    (hscan : s.framer.rlyAct = true) (hbud : s.framer.bud = 0#8) (hb : s.framer.visited = marker)
    (hclass : exec (decodeRelay true marker) = relayMarker marker n) :
    stepRelay s = .next ((s.relayed { emitted := [], bud := n, bufUf := s.framer.bufUf, visited := 1 }
      s.env.schedule s.env.readyAnswers).advanceScan false) := by
  have hzero : s.framer.budZero = true := by simp [Framer.budZero, hbud]
  rw [stepRelay, if_pos hscan, hzero, hb, hclass]
  refine relayMarker_next.2 ⟨hf, .inr ⟨visits_iff.2 ⟨hscan, hb⟩, hzero, ?_⟩⟩
  simp [State.relayed, relayCalls, State.setFramer, hbud]

/-- R125: on a ready link an emitting step transmits its byte and writes the budget and the flag. -/
theorem relayEmit_of_ready {b : Byte} {bud : Budget} {uf stop : Bool} {upd : Framer → Framer} {s : State}
    {restR : List Bool} (hready : s.env.readyAnswers = true :: restR)
    (hupd : upd s.framer = { s.framer with bud := bud, bufUf := uf }) :
    relayEmit b upd stop s = .next ((s.relayed { emitted := [b], bud := bud, bufUf := uf, visited := 1 }
      s.env.schedule restR).advanceScan stop) := by
  refine relayEmit_next.2 ⟨_, .inl ⟨.inl ⟨restR, hready, rfl⟩, ?_⟩⟩
  simp [State.relayed, relayCalls, State.setFramer, State.setEnv, State.call, hupd]

/-- R117 to R125: the relay's visit on a ready link does what `scanBytes` does to the byte, and stops at 0xF7. -/
theorem stepRelay_of_scan {s : State} {restR : List Bool} {v : ScanResult} (hf : s.faulted = none)
    (hscan : s.framer.rlyAct = true) (hv : v = scanBytes [s.framer.visited] s.framer.bud s.framer.bufUf)
    (hready : s.env.readyAnswers = List.replicate v.emitted.length true ++ restR) :
    stepRelay s = .next ((s.relayed v s.env.schedule restR).advanceScan (s.framer.visited == 0xF7#8)) := by
  by_cases h3 : s.framer.bud = 0#8 ∧ s.framer.visited = 0x04#8
  · obtain ⟨hbud, hb⟩ := h3
    obtain rfl : v = ⟨[], 3#8, s.framer.bufUf, 1⟩ := by rw [hv, hbud, hb]; rfl
    obtain rfl : s.env.readyAnswers = restR := hready
    rw [hb]
    exact stepRelay_of_marker hf hscan hbud hb rfl
  by_cases h1 : s.framer.bud = 0#8 ∧ s.framer.visited = 0x05#8
  · obtain ⟨hbud, hb⟩ := h1
    obtain rfl : v = ⟨[], 1#8, s.framer.bufUf, 1⟩ := by rw [hv, hbud, hb]; rfl
    obtain rfl : s.env.readyAnswers = restR := hready
    rw [hb]
    exact stepRelay_of_marker hf hscan hbud hb rfl
  rw [stepRelay, if_pos hscan]
  by_cases h7 : s.framer.visited = 0xF7#8
  · obtain rfl : v = ⟨[0xF7#8], 0#8, s.framer.bufUf, 1⟩ := by rw [hv, h7]; simp [scanBytes]
    have hclass : decodeRelay s.framer.budZero s.framer.visited = .relayEox := by
      simp [decodeRelay, h7, Config.mark3, Config.mark1, Config.eox]
    rw [hclass, h7]
    exact execRelayEox_next.2 ⟨hf, .inr ⟨visits_iff.2 ⟨hscan, h7⟩, relayEmit_of_ready hready rfl⟩⟩
  · obtain rfl : v = ⟨[s.framer.visited], s.framer.spend.bud, s.framer.spend.bufUf, 1⟩ := by
      rw [hv]; simp [scanBytes, h3, h1, h7, ScanResult.after]
    have hclass : decodeRelay s.framer.budZero s.framer.visited = .relayByte s.framer.visited := by
      simp [decodeRelay, Framer.budZero, Config.mark3, Config.mark1, Config.eox, h3, h1, h7]
    have hrelay : s.framer.relaysByte s.framer.visited = true := by
      have hmark : ¬ s.framer.bud = 0#8 ∨ s.framer.visited ≠ 0x04#8 ∧ s.framer.visited ≠ 0x05#8 := by tauto
      simpa [Framer.relaysByte, Framer.visits, Framer.budZero, Config.mark3, Config.mark1, Config.eox, hscan, h7]
        using hmark
    rw [hclass, beq_false_of_ne h7]
    exact execRelayByte_next.2 ⟨hf, .inr ⟨hrelay, relayEmit_of_ready hready rfl⟩⟩

/-! ## The bytes still to visit -/

/-- `s` is in a scan that has `bs` of the buffer still to visit (20_memory.md R41). -/
structure ScanAt (s : State) (bs : List Byte) : Prop where
  notFaulted : s.faulted = none
  scan : s.framer.rlyAct = true
  rest : s.framer.rxbuf.toList.drop s.framer.rlyIdx.toNat = bs

theorem drop_visited (f : Framer) :
    f.rxbuf.toList.drop f.rlyIdx.toNat = f.visited :: f.rxbuf.toList.drop (f.rlyIdx.toNat + 1) := by
  have hlen : f.rlyIdx.toNat < f.rxbuf.toList.length := by simpa using f.rlyIdx.isLt
  rw [List.drop_eq_getElem_cons hlen]
  simp [Framer.visited]

/-- Nothing is left after the byte at index 63, and after any other byte the next index is that of the rest. -/
theorem ScanAt.cons_cases {s : State} {b : Byte} {bs : List Byte} (h : ScanAt s (b :: bs)) :
    s.framer.visited = b ∧ ((s.framer.rlyIdx = 63#6 ∧ bs = []) ∨
      (s.framer.rlyIdx ≠ 63#6 ∧ bs ≠ [] ∧ ScanAt s.nextIndex bs)) := by
  obtain ⟨hf, hscan, hrest⟩ := h
  rw [drop_visited] at hrest
  obtain ⟨hb, rfl⟩ := List.cons.inj hrest
  refine ⟨hb, ?_⟩
  by_cases hidx : s.framer.rlyIdx = 63#6
  · exact .inl ⟨hidx, by simp [hidx]⟩
  · have hnext : ∀ x : BitVec 6, x ≠ 63#6 → (x + 1#6).toNat = x.toNat + 1 ∧ x.toNat + 1 < 64 := by decide
    obtain ⟨hsucc, hlt⟩ := hnext _ hidx
    refine .inr ⟨hidx, by simpa using hlt, hf, hscan, ?_⟩
    exact congrArg (List.drop · s.framer.rxbuf.toList) hsucc

/-! ## The whole scan -/

/-- The relay's turn in a scan on a ready link: one visit and the tail of R117. -/
theorem step_of_scanAt {s : State} {b : Byte} {bs : List Byte} {v : ScanResult} {restA : List Agent}
    {restR : List Bool} (hat : ScanAt s (b :: bs)) (hv : v = scanBytes [b] s.framer.bud s.framer.bufUf)
    (hturn : s.env.schedule = .relay :: restA)
    (hready : s.env.readyAnswers = List.replicate v.emitted.length true ++ restR) :
    step s = .next ((s.relayed v restA restR).advanceScan (b == 0xF7#8)) := by
  obtain ⟨rfl, -⟩ := hat.cons_cases
  rw [step_of_turn hat.notFaulted (.inl ⟨restA, hturn, rfl⟩)]
  exact stepRelay_of_scan hat.notFaulted hat.scan hv hready

/-- A step that answers a next state is the first of a run. -/
theorem run_succ_of_step {M : Host.Core} {s u : M.State} (h : M.step s = .next u) (k : Nat) :
    M.run (k + 1) s = M.run k u := by
  rw [Host.Core.run, h]

/-- R120, R122: an emitted 0xF7 and the byte at index 63 end the scan. -/
theorem run_of_last_visit {s : State} {b : Byte} {bs : List Byte} {restA : List Agent} {restR : List Bool}
    {r : ScanResult} (hat : ScanAt s (b :: bs)) (hlast : b = 0xF7#8 ∨ s.framer.rlyIdx = 63#6)
    (hr : r = scanBytes [b] s.framer.bud s.framer.bufUf)
    (hturns : s.env.schedule = List.replicate r.visited .relay ++ restA)
    (hready : s.env.readyAnswers = List.replicate r.emitted.length true ++ restR) :
    core.run r.visited s = .next (s.relayed r restA restR).endScan := by
  have hone : r.visited = 1 := by rw [hr, visited_scanBytes_singleton]
  rw [hone] at hturns ⊢
  have hstep := step_of_scanAt (restA := restA) hat hr hturns hready
  rw [advanceScan_last (s := s.relayed r restA restR) (hlast.imp_left beq_iff_eq.2)] at hstep
  exact run_succ_of_step (M := core) hstep 0

/-- R117 to R122: the visits of the bytes `bs` still in the buffer, one after the other on a ready link, leave what
`scanBytes bs` says, and the scan then ends. -/
theorem run_of_scanAt (bs : List Byte) : ∀ (s : State) (restA : List Agent) (restR : List Bool) (r : ScanResult),
    bs ≠ [] → ScanAt s bs → r = scanBytes bs s.framer.bud s.framer.bufUf →
    s.env.schedule = List.replicate r.visited .relay ++ restA →
    s.env.readyAnswers = List.replicate r.emitted.length true ++ restR →
    core.run r.visited s = .next (s.relayed r restA restR).endScan := by
  induction bs with
  | nil => exact fun _ _ _ _ hne => absurd rfl hne
  | cons b bs ih =>
    intro s restA restR r _ hat hr hturns hready
    by_cases h7 : b = 0xF7#8
    · exact run_of_last_visit hat (.inl h7) (by rw [hr, h7, scanBytes_eox]) hturns hready
    obtain ⟨-, ⟨hidx, rfl⟩ | ⟨hidx, hne, hnext⟩⟩ := hat.cons_cases
    · exact run_of_last_visit hat (.inr hidx) hr hturns hready
    · obtain ⟨v, hv⟩ : ∃ v, v = scanBytes [b] s.framer.bud s.framer.bufUf := ⟨_, rfl⟩
      obtain ⟨r', hr'⟩ : ∃ r', r' = scanBytes bs v.bud v.bufUf := ⟨_, rfl⟩
      obtain rfl : r = r'.after v.emitted := by rw [hr, scanBytes_cons h7, hr', hv]
      have hanswers : s.env.readyAnswers =
          List.replicate v.emitted.length true ++ (List.replicate r'.emitted.length true ++ restR) := by
        rw [hready, ScanResult.after, List.length_append, List.replicate_add, List.append_assoc]
      have hstep := step_of_scanAt (restA := List.replicate r'.visited Agent.relay ++ restA) hat hv hturns hanswers
      rw [beq_false_of_ne h7, advanceScan_next (s := s.relayed v _ _) hidx] at hstep
      have hrest := ih (s.relayed v _ _).nextIndex restA restR r' hne
        ⟨hnext.notFaulted, hnext.scan, hnext.rest⟩ hr' rfl rfl
      exact (run_succ_of_step (M := core) hstep _).trans (hrest.trans (congrArg _ (relayed_after ..)))

/-- Settles O48: the scan from index 0 has the whole buffer still to visit. -/
theorem relayScanRefinesTheBufferFunction : Obligations.RelayScanRefinesTheBufferFunction := by
  intro s restA restR r hf hscan hidx hr hturns hready
  have hat : ScanAt s s.framer.rxbuf.toList := ⟨hf, hscan, by simp [hidx]⟩
  have hne : s.framer.rxbuf.toList ≠ [] := by simp
  refine ⟨_, run_of_scanAt _ s restA restR r hne hat hr hturns hready, rfl, rfl, rfl, ?_, ?_, rfl, hf⟩
  · rw [endScan_calls, State.relayed, serialBytes_append, serialBytes_append, serialBytes_relayCalls]
    exact List.append_nil _
  · rw [endScan_calls, State.relayed, rearmCount_append, rearmCount_append, rearmCount_relayCalls]
    rfl

end Sys2Proof.Machine
end

section
/-! PROOFS. Encoding and decoding (30_encoding.md R66, R67, R71): both round trips by the operands of PARSE and ENCODE
(10_state.md R36), the refused words, and the single opcode row of a legal word. -/

namespace Sys2Proof

open Sys2Proof.Machine

/-! ## PARSE words -/

theorem encode_of_parseOperand {i : Instr} {b : Byte} (h : parseOperand i = some b) :
    encode i = plainStimulus (parseWord b) := by
  cases i with
  | parseData | parseNoteOff | parseNoteOn | parsePolyKp | parseCc | parsePc | parseChp | parsePb | parseSox | parseMtc
  | parseSpp | parseSs | parseUndef | parseTune | parseEox | parseRt => obtain rfl := Option.some.inj h; rfl
  | _ => cases h

/-- R71: the class the decoder finds stands for the byte it was found on. -/
theorem parseOperand_decodeParse : ∀ b : Byte, parseOperand (decodeParse b) = some b := by decide

/-- R71: the byte a class stands for is of that class. -/
theorem decodeParse_of_parseOperand {i : Instr} {b : Byte} (h : parseOperand i = some b) : decodeParse b = i := by
  cases i with
  | parseData x | parseNoteOff x | parseNoteOn x | parsePolyKp x | parseCc x | parsePc x | parseChp x | parsePb x
  | parseUndef x | parseRt x => obtain rfl := Option.some.inj h; clear h; revert x; decide
  | parseSox | parseMtc | parseSpp | parseSs | parseTune | parseEox => obtain rfl := Option.some.inj h; rfl
  | _ => cases h

theorem decode_encode_of_parse {i : Instr} {b : Byte} (h : parseOperand i = some b) (budZero : Bool) :
    decode budZero (encode i) = .ok i := by
  rw [encode_of_parseOperand h, plainStimulus, decode, decodeStimulus_parseWord, decodeParse_of_parseOperand h]

/-! ## ENCODE words -/

theorem encode_of_encodeOperands {i : Instr} {n : Nibble} {d1 d2 : Byte} (h : encodeOperands i = some (n, d1, d2)) :
    encode i = plainStimulus (encodeWord n d1 d2) := by
  cases i with
  | encodeNoteOff | encodeNoteOn | encodePb | encodeNop07 | encodeNopAB | encodeNopCD | encodeNopF => cases h; rfl
  | _ => cases h

/-- R71: the class the decoder finds has the operands it was found on. In an ENCODE.NOP row the row's fixed bits,
followed by its open bits, are the nibble. -/
theorem encodeOperands_decodeEncode (n : Nibble) (d1 d2 : Byte) :
    encodeOperands (decodeEncode n d1 d2) = some (n, d1, d2) := by
  have hAB : ∀ n : Nibble, n.extractLsb' 1 3 = 0x5#3 → 0x5#3 ++ n.extractLsb' 0 1 = n := by decide
  have hCD : ∀ n : Nibble, n.extractLsb' 1 3 = 0x6#3 → 0x6#3 ++ n.extractLsb' 0 1 = n := by decide
  have h07 : ∀ n : Nibble, n = 0x8#4 ∨ n = 0x9#4 ∨ n = 0xE#4 ∨ n = 0xF#4 ∨ n.extractLsb' 1 3 = 0x5#3 ∨
      n.extractLsb' 1 3 = 0x6#3 ∨ 0#1 ++ n.extractLsb' 0 3 = n := by decide
  unfold decodeEncode
  split_ifs with h8 h9 hE hF h5 h6
  · rw [h8]; rfl
  · rw [h9]; rfl
  · rw [hE]; rfl
  · rw [hF]; rfl
  · rw [encodeOperands, hAB n h5]
  · rw [encodeOperands, hCD n h6]
  · have hn : 0#1 ++ n.extractLsb' 0 3 = n := by simpa [h8, h9, hE, hF, h5, h6] using h07 n
    rw [encodeOperands, hn]

/-- R71: the operands of a class are of that class. -/
theorem decodeEncode_of_encodeOperands {i : Instr} {n : Nibble} {d1 d2 : Byte}
    (h : encodeOperands i = some (n, d1, d2)) : decodeEncode n d1 d2 = i := by
  cases i with
  | encodeNoteOff | encodeNoteOn | encodePb | encodeNopF => cases h; rfl
  | encodeNop07 x =>
    cases h
    have key : ∀ x : BitVec 3, 0#1 ++ x ≠ 0x8#4 ∧ 0#1 ++ x ≠ 0x9#4 ∧ 0#1 ++ x ≠ 0xE#4 ∧ 0#1 ++ x ≠ 0xF#4 ∧
        (0#1 ++ x).extractLsb' 1 3 ≠ 0x5#3 ∧ (0#1 ++ x).extractLsb' 1 3 ≠ 0x6#3 ∧
        (0#1 ++ x).extractLsb' 0 3 = x := by decide
    obtain ⟨h8, h9, hE, hF, h5, h6, hx⟩ := key x
    rw [decodeEncode, if_neg h8, if_neg h9, if_neg hE, if_neg hF, if_neg h5, if_neg h6, hx]
  | encodeNopAB x | encodeNopCD x =>
    cases h
    obtain rfl | rfl : x = 0#1 ∨ x = 1#1 := by revert x; decide
    · rfl
    · rfl
  | _ => cases h

theorem decode_encode_of_encode {i : Instr} {n : Nibble} {d1 d2 : Byte} (h : encodeOperands i = some (n, d1, d2))
    (budZero : Bool) : decode budZero (encode i) = .ok i := by
  rw [encode_of_encodeOperands h, plainStimulus, decode, decodeStimulus_encodeWord, decodeEncode_of_encodeOperands h]

/-! ## Relay bytes -/

/-- 43_relay.md R121: a byte that is not 0xF7 and no marker at the budget is RELAY.BYTE. -/
theorem decodeRelay_byte {budZero : Bool} {b : Byte} (hwf : (Instr.relayByte b).wf = true)
    (hcond : (Instr.relayByte b).budgetCond budZero = true) : decodeRelay budZero b = .relayByte b := by
  have hb : b ≠ Config.eox := by simpa [Instr.wf] using hwf
  cases budZero with
  | false => simp [decodeRelay, hb]
  | true =>
    obtain ⟨h3, h1⟩ : b ≠ Config.mark3 ∧ b ≠ Config.mark1 := by simpa [Instr.budgetCond] using hcond
    simp [decodeRelay, hb, h3, h1]

/-- 43_relay.md R117: the class of a visited byte is written as that byte, and is an instruction at that budget. -/
theorem encode_decodeRelay (budZero : Bool) (b : Byte) :
    encode (decodeRelay budZero b) = .relay b ∧ (decodeRelay budZero b).wf = true ∧
      (decodeRelay budZero b).budgetCond budZero = true := by
  unfold decodeRelay
  split_ifs with h3 h1 h7
  · obtain ⟨rfl, rfl⟩ : budZero = true ∧ b = Config.mark3 := by simpa using h3
    exact ⟨rfl, rfl, rfl⟩
  · obtain ⟨rfl, rfl⟩ : budZero = true ∧ b = Config.mark1 := by simpa using h1
    exact ⟨rfl, rfl, rfl⟩
  · rw [h7]
    exact ⟨rfl, rfl, rfl⟩
  · refine ⟨rfl, by simpa [Instr.wf] using h7, ?_⟩
    cases budZero with
    | false => rfl
    | true => simpa [Instr.budgetCond] using And.intro h3 h1

/-! ## The round trips -/

/-- Settles O2: PARSE and ENCODE by their operands, the other stimuli by their words, RELAY by its byte. -/
theorem decodeOfEncodeIsTheInstruction : Obligations.DecodeOfEncodeIsTheInstruction := by
  intro i budZero hwf hcond
  cases i with
  | parseData | parseNoteOff | parseNoteOn | parsePolyKp | parseCc | parsePc | parseChp | parsePb | parseSox | parseMtc
  | parseSpp | parseSs | parseUndef | parseTune | parseEox | parseRt => exact decode_encode_of_parse rfl budZero
  | encodeNoteOff | encodeNoteOn | encodePb | encodeNop07 | encodeNopAB | encodeNopCD | encodeNopF =>
    exact decode_encode_of_encode rfl budZero
  | setFilter m => exact decodeStimulus_setFilterWord m _
  | rxbuf | txDone | reset | txSend => rfl
  | relayMark3 | relayMark1 =>
    obtain rfl : budZero = true := hcond
    rfl
  | relayEox => cases budZero <;> rfl
  | relayByte b => exact congrArg Except.ok (decodeRelay_byte hwf hcond)

/-- A word that decodes is one R66 spells. -/
theorem spelled_of_decode {w : Word} {buf : Buffer} {i : Instr} (h : decodeStimulus w buf = .ok i) : SpelledWord w := by
  refine spelled_of_legal fun hill => ?_
  rw [decodeStimulus_illegal hill buf] at h
  cases h

/-- R66: a word that decodes is the word of its instruction, with the buffer where RXBUF carries one. -/
theorem encode_of_decodeStimulus {w : Word} {buf : Buffer} {i : Instr} (h : decodeStimulus w buf = .ok i) :
    ∃ buf' : Buffer, encode i = .stimulus w buf' ∧ (w = 0x30000000#32 → buf' = buf) := by
  by_cases hw : w = 0x30000000#32
  · subst hw
    obtain rfl : Instr.rxbuf buf = i := Except.ok.inj h
    exact ⟨buf, rfl, fun _ => rfl⟩
  refine ⟨zeroBuffer, ?_, fun h => absurd h hw⟩
  cases spelled_of_decode h with
  | parse b =>
    rw [decodeStimulus_parseWord] at h
    obtain rfl := Except.ok.inj h
    exact encode_of_parseOperand (parseOperand_decodeParse b)
  | encode n d1 d2 =>
    rw [decodeStimulus_encodeWord] at h
    obtain rfl := Except.ok.inj h
    exact encode_of_encodeOperands (encodeOperands_decodeEncode n d1 d2)
  | setFilter m =>
    rw [decodeStimulus_setFilterWord] at h
    obtain rfl := Except.ok.inj h
    rfl
  | rxbuf => exact absurd rfl hw
  | txDone | reset => obtain rfl := Except.ok.inj h; rfl

/-- R121: only a relay byte can be ill formed. -/
theorem wf_of_stimulus {i : Instr} {w : Word} {buf : Buffer} (h : encode i = .stimulus w buf) : i.wf = true := by
  cases i with
  | relayByte => cases h
  | _ => rfl

/-- Settles O3: the legal words by the forms of R66, the relay bytes by the order of R117's tests. -/
theorem encodeOfDecodeIsTheWord : Obligations.EncodeOfDecodeIsTheWord := by
  refine ⟨fun w buf i h => ?_, encode_decodeRelay⟩
  obtain ⟨buf', hword, hbuf⟩ := encode_of_decodeStimulus h
  exact ⟨wf_of_stimulus hword, buf', hword, hbuf⟩

/-! ## The opcode rows -/

/-- Every instruction's words fit its row. -/
theorem encode_fits_row : ∀ i : Instr, Laws.EncodeMatchesTable.Statement i
  | .parseData d => Laws.EncodeMatchesTable.parseData d
  | .parseNoteOff c => Laws.EncodeMatchesTable.parseNoteOff c
  | .parseNoteOn c => Laws.EncodeMatchesTable.parseNoteOn c
  | .parsePolyKp c => Laws.EncodeMatchesTable.parsePolyKp c
  | .parseCc c => Laws.EncodeMatchesTable.parseCc c
  | .parsePc c => Laws.EncodeMatchesTable.parsePc c
  | .parseChp c => Laws.EncodeMatchesTable.parseChp c
  | .parsePb c => Laws.EncodeMatchesTable.parsePb c
  | .parseSox => Laws.EncodeMatchesTable.parseSox
  | .parseMtc => Laws.EncodeMatchesTable.parseMtc
  | .parseSpp => Laws.EncodeMatchesTable.parseSpp
  | .parseSs => Laws.EncodeMatchesTable.parseSs
  | .parseUndef x => Laws.EncodeMatchesTable.parseUndef x
  | .parseTune => Laws.EncodeMatchesTable.parseTune
  | .parseEox => Laws.EncodeMatchesTable.parseEox
  | .parseRt x => Laws.EncodeMatchesTable.parseRt x
  | .encodeNoteOff d1 d2 => Laws.EncodeMatchesTable.encodeNoteOff d1 d2
  | .encodeNoteOn d1 d2 => Laws.EncodeMatchesTable.encodeNoteOn d1 d2
  | .encodePb d1 d2 => Laws.EncodeMatchesTable.encodePb d1 d2
  | .encodeNop07 n d1 d2 => Laws.EncodeMatchesTable.encodeNop07 n d1 d2
  | .encodeNopAB n d1 d2 => Laws.EncodeMatchesTable.encodeNopAB n d1 d2
  | .encodeNopCD n d1 d2 => Laws.EncodeMatchesTable.encodeNopCD n d1 d2
  | .encodeNopF d1 d2 => Laws.EncodeMatchesTable.encodeNopF d1 d2
  | .setFilter mask => Laws.EncodeMatchesTable.setFilter mask
  | .rxbuf buf => Laws.EncodeMatchesTable.rxbuf buf
  | .txDone => Laws.EncodeMatchesTable.txDone
  | .reset => Laws.EncodeMatchesTable.reset
  | .relayMark3 => Laws.EncodeMatchesTable.relayMark3
  | .relayMark1 => Laws.EncodeMatchesTable.relayMark1
  | .relayEox => Laws.EncodeMatchesTable.relayEox
  | .relayByte b => Laws.EncodeMatchesTable.relayByte b
  | .txSend => Laws.EncodeMatchesTable.txSend

theorem covers_of_stimulus {i : Instr} {w : Word} {buf : Buffer} (h : encode i = .stimulus w buf) :
    i.row.covers w = true := by
  have hfits := encode_fits_row i
  rw [Laws.EncodeMatchesTable.Statement, h, Laws.EncodeMatchesTable.fits, Bool.and_eq_true] at hfits
  exact hfits.2

theorem row_mem_stimulusRows {i : Instr} {w : Word} {buf : Buffer} (h : encode i = .stimulus w buf) :
    i.row ∈ stimulusRows := by
  cases i with
  | parseData | parseNoteOff | parseNoteOn | parsePolyKp | parseCc | parsePc | parseChp | parsePb | parseSox | parseMtc
  | parseSpp | parseSs | parseUndef | parseTune | parseEox | parseRt | encodeNoteOff | encodeNoteOn | encodePb | encodeNop07
  | encodeNopAB | encodeNopCD | encodeNopF | setFilter | rxbuf | txDone | reset =>
    simp [stimulusRows, parseRows, encodeRows, controlRows, Instr.row]
  | relayMark3 | relayMark1 | relayEox | relayByte | txSend => cases h

/-- Two rows that agree in every bit both fix are the same row. -/
theorem stimulusRows_disjoint : ∀ r ∈ stimulusRows, ∀ r' ∈ stimulusRows,
    r.pattern &&& r'.mask = r'.pattern &&& r.mask → r = r' := by decide

/-- No word fits two stimulus rows. -/
theorem eq_of_covers {r r' : OpRow} {w : Word} (hr : r ∈ stimulusRows) (hr' : r' ∈ stimulusRows)
    (h : r.covers w = true) (h' : r'.covers w = true) : r = r' := by
  have h : w &&& r.mask = r.pattern := beq_iff_eq.1 h
  have h' : w &&& r'.mask = r'.pattern := beq_iff_eq.1 h'
  refine stimulusRows_disjoint r hr r' hr' ?_
  rw [← h, ← h', BitVec.and_assoc, BitVec.and_assoc, BitVec.and_comm r.mask]

/-- Settles O4: a legal word fits the row of its instruction, and no word fits two rows. -/
theorem oneOpcodeRowCoversALegalWord : Obligations.OneOpcodeRowCoversALegalWord := by
  intro w buf hlegal
  obtain ⟨i, hi⟩ := decodeStimulus_spelled (spelled_of_legal hlegal) buf
  obtain ⟨buf', hword, -⟩ := encode_of_decodeStimulus hi
  have hmem := row_mem_stimulusRows hword
  have hcovers := covers_of_stimulus hword
  refine ⟨i, hi, hmem, fun r hr => ⟨fun h => eq_of_covers hr hmem h hcovers, ?_⟩⟩
  rintro rfl
  exact hcovers

/-! ## The refused words -/

/-- Settles O5: a word that is not illegal is spelled by R66 and decodes; a turn leaves what its collaborator offers. -/
theorem illegalWordsAreRefused : Obligations.IllegalWordsAreRefused := by
  refine ⟨fun w buf => ⟨fun h => ?_, fun h => decodeStimulus_illegal h buf⟩, fun s c e o hf ht ho hill => ?_⟩
  · by_contra hlegal
    obtain ⟨i, hi⟩ := decodeStimulus_spelled (spelled_of_legal hlegal) buf
    cases hi.symm.trans h
  · have hoffer : (s.setEnv e).env.offerOf c = some o := (ht.offerOf_eq c).trans ho
    rw [step_of_turn hf ht, stepAgent, stepOffer, hoffer]
    simp only [decodeStimulus_illegal hill]

/-! ## Words written out -/

/-- Settles O1: the legal words by computation, the refused ones by the reserved bits or the reserved OP they have. -/
theorem writtenOutWordsDecode : Obligations.WrittenOutWordsDecode := by
  intro buf
  have refused : ∀ w : Word, IllegalWord w → decodeStimulus w buf = .error (.illegalStimulus w) :=
    fun _ h => decodeStimulus_illegal h buf
  exact ⟨rfl, rfl, rfl, rfl, rfl, rfl, rfl, rfl, rfl, rfl, rfl, refused _ (by decide), refused _ (by decide),
    refused _ (by decide), refused _ (by decide)⟩

end Sys2Proof
end

section
/-! PROOFS. The PARSE frame (41_parser.md R76 to R78, R81) on every class and byte: Dispatch, the one result of a PARSE
that is not held, and the filter it passed. -/

namespace Sys2Proof.Machine

/-- Settles O16: the class of the byte is the class itself, whose meaning is Dispatch on the byte. -/
theorem parseMeaningsAgreeWithDispatch : Obligations.ParseMeaningsAgreeWithDispatch := fun _ _ s h =>
  ⟨decodeParse_of_parseOperand h, exec_of_parseOperand h s⟩

/-! ## What the frame writes -/

/-- R77: `WAS_SX` is the SysEx mode before the PARSE, `FLT` the committed filter, and `FLT_PEND` is kept. -/
theorem parseUnit_writes {b : Byte} {p q : Parser} {r : Result} (h : parseUnit (dispatchByte b) p = .ok (r, q)) :
    q.wasSx = p.isSx ∧ q.fltPend = p.fltPend ∧ q.flt = p.committedFlt := by
  obtain ⟨r', q', hbranch, -, rfl⟩ := parseUnit_ok.1 h
  obtain ⟨hflt, hpend⟩ := dispatchByte_keepsFilter b _ _ _ hbranch
  exact ⟨rfl, hpend, hflt⟩

/-- Settles O17: in a state that meets R25 Dispatch answers on every byte, and no branch writes a filter register. -/
theorem everyParseByteCompletes : Obligations.EveryParseByteCompletes := by
  intro i b s hb hf hidle hp
  obtain ⟨r, q, hunit, -⟩ := parseUnit_answersInv b hp
  obtain ⟨hwas, hpend, hflt⟩ := parseUnit_writes hunit
  refine ⟨r, q, ?_, ?_, hpend, hflt⟩
  · rw [exec_of_parseOperand hb, parseFrame_ok hf hidle hunit]
    rfl
  · rw [hwas, isSx_iff]

/-! ## Surface -/

/-- R81: the filter hides a result or leaves it as it is. -/
theorem eq_of_surface {flt : Nibble} {r u : Result} (h : surface flt r = u) (hu : u ≠ .pending) : r = u := by
  unfold surface at h
  split at h
  · split at h
    · exact h
    · exact absurd h.symm hu
  · split at h
    · exact h
    · exact absurd h.symm hu
  · exact h
  · exact absurd h.symm hu

/-- R81: a completion that is returned passed the filter. -/
theorem passes_of_surface_complete {flt c : Nibble} {r : Result} {msg : List Byte} {len : BitVec 2}
    (h : surface flt r = .complete msg len c) : flt &&& c ≠ 0x0#4 := by
  obtain rfl := eq_of_surface h nofun
  rw [surface_complete] at h
  exact fun hc => absurd h (by simp [hc])

/-- R81: a SysEx byte that is returned passed the filter. -/
theorem passes_of_surface_sysExByte {flt : Nibble} {r : Result} {x : Byte} {first last : Bool}
    (h : surface flt r = .sysExByte x first last) : flt &&& sysExCat ≠ 0x0#4 := by
  obtain rfl := eq_of_surface h nofun
  exact fun hc => absurd h (by simp [surface, passes, hc])

/-- Settles O28: the one result a PARSE appends was surfaced by the `FLT` it leaves. -/
theorem onlyEnabledCategoriesSurface : Obligations.OnlyEnabledCategoriesSurface := by
  intro i b s t r hb h hr
  rw [exec_of_parseOperand hb] at h
  obtain ⟨-, ⟨-, rfl⟩ | ⟨-, ⟨f, -, rfl⟩ | ⟨r', q, hunit, rfl⟩⟩⟩ := parseFrame_next.1 h
  · simp at hr
  · simp at hr
  · obtain rfl : r' = r := by simpa using hr
    obtain ⟨u, q', -, hsurface, rfl⟩ := parseUnit_ok.1 hunit
    exact ⟨fun _ _ _ e => passes_of_surface_complete (hsurface.symm.trans e),
      fun _ _ _ e => passes_of_surface_sysExByte (hsurface.symm.trans e)⟩

end Sys2Proof.Machine
end

section
/-! PROOFS. A data byte with no message in progress and a running status to start from (41_parser.md R82, R83, R100
case C). -/

namespace Sys2Proof.Machine

/-- R77, R82: the unit once the filter is committed and the running status has started a message of length `n`, before
the data byte is appended. -/
def Parser.runningMessage (p : Parser) (n : BitVec 2) : Parser :=
  { p with flt := p.fltPend, acc := p.acc.set 0 p.rs, accN := 1#2, req := n }

/-- R77, R100 case C: with no message in progress the filter is committed, and the data byte is appended to the message
its running status starts. -/
theorem execParseData_of_running {d : BitVec 7} {n : BitVec 2} {s : State} {r : Result} {q : Parser}
    (hf : s.faulted = none) (hidle : s.framer.rlyAct = false) (hs : s.parser.sxs ≠ .active) (hn : s.parser.accN = 0#2)
    (hlen : lengthOf s.parser.rs = .ok n) (hlong : n ≠ 1#2)
    (h : appendByte (dataByte d) (s.parser.runningMessage n) = .ok (r, q)) :
    exec (.parseData d) s = .next ((s.setParser { q with wasSx := false }).returnResult (surface q.flt r)) := by
  have hx : s.parser.isSx = false := by simpa [Parser.isSx] using hs
  have hrs : s.parser.rs ≠ 0x00#8 := fun h0 => by simp [h0, lengthOf] at hlen
  have hbranch : dataBranch (dataByte d) { s.parser with flt := s.parser.committedFlt } = .ok (r, q) := by
    have hcommit : s.parser.committedFlt = s.parser.fltPend := if_pos ⟨hn, hs⟩
    rw [hcommit, dataBranch, if_neg (by simpa [Parser.isSx] using hs), appendData, if_pos hn, if_neg hrs]
    simp only [hlen, hlong, if_false]
    exact h
  exact parseFrame_ok hf hidle (parseUnit_ok.2 ⟨r, q, hbranch, rfl, by rw [hx]⟩)

/-- Settles O26: the status byte is in place, so the data byte is the second of three, or the last of two. -/
theorem dataByteStartsFromRunningStatus : Obligations.DataByteStartsFromRunningStatus := by
  intro d n c s hf hidle hs hn hlen hc
  have hlt : (s.parser.runningMessage n).accN.toNat < 3 := Nat.one_lt_succ_succ 1
  refine ⟨?_, ?_⟩
  · rintro rfl
    have hmore : (s.parser.runningMessage 3#2).accN + 1#2 ≠ 3#2 := by simp [Parser.runningMessage]
    rw [execParseData_of_running hf hidle hs hn hlen (by decide) (appendByte_more hlt hmore)]
    rfl
  · rintro rfl
    have hlast : (s.parser.runningMessage 2#2).accN + 1#2 = 2#2 := rfl
    have hstatus : categoryOf ((s.parser.runningMessage 2#2).acc.set
        (s.parser.runningMessage 2#2).accN.toNat (dataByte d))[0] = .ok c := by
      rw [Vector.getElem_set_ne _ _ (by simp [Parser.runningMessage])]
      simpa [Parser.runningMessage] using hc
    have happend := (appendByte_last hlt hlast).trans (finish_ok hstatus)
    rw [execParseData_of_running hf hidle hs hn hlen (by decide) happend, surface_complete]
    simp [Parser.runningMessage, acc_toList, State.setParser, State.returnResult]

end Sys2Proof.Machine
end

section
/-! PROOFS. The packets of a mapped ENCODE (42_encoder.md R106 to R109). -/

namespace Sys2Proof.Machine

/-- Settles O35: each mapped ENCODE by its code index and status byte; note-on by its velocity. -/
theorem mappedEncodeBuildsThePacket : Obligations.MappedEncodeBuildsThePacket := by
  intro d1 d2 s hf hidle hempty
  have hbuilt : ∀ cin st e1 e2, encodeMapped cin st e1 e2 s = .next (s.setFramer (s.framer.buildPacket cin st e1 e2)) :=
    fun _ _ _ _ => encodeMapped_next.2 ⟨hf, .inr ⟨hidle, hempty, rfl⟩⟩
  refine ⟨hbuilt _ _ _ _, fun hz => ?_, fun hz => ?_, hbuilt _ _ _ _⟩
  · rw [exec, execEncodeNoteOn, if_neg hz]
    exact hbuilt _ _ _ _
  · rw [exec, execEncodeNoteOn, if_pos hz]
    exact hbuilt _ _ _ _

end Sys2Proof.Machine
end

section
/-! PROOFS. The result word (30_encoding.md R61 to R63): the fields of a packed result are the ones it was packed from. -/

namespace Sys2Proof.Machine

/-! ## The fields of a result word -/

/-- A result word from its six fields, from bit 31 down (R62). -/
def packFields (b2 b1 b0 : Byte) (cat : Nibble) (f kind : BitVec 2) : Word := b2 ++ b1 ++ b0 ++ cat ++ f ++ kind

theorem packFields_fields (b2 b1 b0 : Byte) (cat : Nibble) (f kind : BitVec 2) :
    (packFields b2 b1 b0 cat f kind).extractLsb' 0 2 = kind ∧ (packFields b2 b1 b0 cat f kind).extractLsb' 2 2 = f ∧
      (packFields b2 b1 b0 cat f kind).extractLsb' 4 4 = cat ∧ (packFields b2 b1 b0 cat f kind).extractLsb' 8 8 = b0 ∧
      (packFields b2 b1 b0 cat f kind).extractLsb' 16 8 = b1 ∧ (packFields b2 b1 b0 cat f kind).extractLsb' 24 8 = b2 := by
  unfold packFields
  refine ⟨?_, ?_, ?_, ?_, ?_, ?_⟩ <;>
    (apply BitVec.eq_of_getLsbD_eq
     intro i hi
     simp only [BitVec.getLsbD_extractLsb', BitVec.getLsbD_append]
     interval_cases i <;> simp)

/-- The result that six fields spell, before the check that the word packs it. -/
def resultOfFields (b2 b1 b0 : Byte) (cat : Nibble) (f kind : BitVec 2) : Result :=
  if kind = 0#2 then .pending
  else if kind = 1#2 then .complete ([b0, b1, b2].take f.toNat) f cat
  else if kind = 2#2 then .sysExByte b0 (f.getLsbD 0) (f.getLsbD 1)
  else if f = 1#2 then .error .unterminatedSysEx b0
  else .error .dataByteWithoutStatus b0

/-- A word packs a result when its fields spell it and packing that gives the word again. -/
theorem resultOfWord_eq_some {w : Word} {r : Result} :
    resultOfWord w = some r ↔
      resultOfFields (w.extractLsb' 24 8) (w.extractLsb' 16 8) (w.extractLsb' 8 8) (w.extractLsb' 4 4)
        (w.extractLsb' 2 2) (w.extractLsb' 0 2) = r ∧ r.wf = true ∧ resultWord r = w := by
  change (if _ = true then some (resultOfFields _ _ _ _ _ _) else none) = _ ↔ _
  rw [Option.ite_none_right_eq_some, Bool.and_eq_true, beq_iff_eq, Option.some.injEq]
  constructor
  · rintro ⟨h, rfl⟩; exact ⟨rfl, h⟩
  · rintro ⟨rfl, h⟩; exact ⟨h, rfl⟩

theorem resultOfWord_of_packFields {r : Result} {b2 b1 b0 : Byte} {cat : Nibble} {f kind : BitVec 2} (hwf : r.wf = true)
    (hword : resultWord r = packFields b2 b1 b0 cat f kind) (hfields : resultOfFields b2 b1 b0 cat f kind = r) :
    resultOfWord (resultWord r) = some r := by
  obtain ⟨hk, hf, hcat, h0, h1, h2⟩ := packFields_fields b2 b1 b0 cat f kind
  refine resultOfWord_eq_some.2 ⟨?_, hwf, rfl⟩
  rw [hword, hk, hf, hcat, h0, h1, h2, hfields]

/-! ## Packing loses nothing -/

/-- R62: a message of at most three bytes, padded with zeros to three and cut to its length again. -/
theorem take_padded {msg : List Byte} (h : msg.length ≤ 3) :
    [msg[0]?.getD 0x00#8, msg[1]?.getD 0x00#8, msg[2]?.getD 0x00#8].take msg.length = msg := by
  match msg, h with
  | [], _ | [_], _ | [_, _], _ | [_, _, _], _ => rfl

/-- Settles O59: each kind of result by the fields it is packed from; the other direction is the reader's own check. -/
theorem resultWordIsOneToOne : Obligations.ResultWordIsOneToOne := by
  refine ⟨fun r hwf => ?_, fun w r h => (resultOfWord_eq_some.1 h).2⟩
  cases r with
  | pending => rfl
  | complete msg len cat =>
    obtain ⟨⟨hlen, -⟩, -⟩ : (msg.length = len.toNat ∧ len ≠ 0#2) ∧ _ := by
      simpa only [Result.wf, Bool.and_eq_true, beq_iff_eq, bne_iff_ne] using hwf
    have hmsg := take_padded (msg := msg) (by have := len.isLt; omega)
    exact resultOfWord_of_packFields hwf rfl (congrArg (Result.complete · len cat) (hlen ▸ hmsg))
  | sysExByte b first last =>
    refine resultOfWord_of_packFields (b2 := 0#8) (b1 := 0#8) (kind := 2#2) hwf rfl ?_
    cases first <;> cases last <;> rfl
  | error k b =>
    refine resultOfWord_of_packFields (b2 := 0#8) (b1 := 0#8) (kind := 3#2) hwf rfl ?_
    cases k <;> rfl

end Sys2Proof.Machine
end

section
/-! PROOFS. The StatusTable (40_status_table.md R73 to R75): its values by ranges of the byte, its domain, and the
outside call. -/

namespace Sys2Proof.Machine

/-! ## The values, by ranges -/

/-- The high nibble of a byte, as the range of the byte's value. -/
theorem range_of_highNibble {b : Byte} {n : Nibble} (h : b.extractLsb' 4 4 = n) :
    16 * n.toNat ≤ b.toNat ∧ b.toNat < 16 * n.toNat + 16 := by
  have hdiv : n.toNat = b.toNat / 16 := by
    rw [← h, BitVec.extractLsb'_toNat, Nat.shiftRight_eq_div_pow]
    exact Nat.mod_eq_of_lt (by have := b.isLt; omega)
  omega

theorem ne_of_realTime {b c : Byte} (h : 0xF8 ≤ b.toNat) (hc : c.toNat < 0xF8) : b ≠ c := by
  rintro rfl
  omega

theorem categoryOf_channelVoice {b : Byte} (hlo : 0x80 ≤ b.toNat) (hhi : b.toNat ≤ 0xEF) :
    categoryOf b = .ok channelVoice := by
  rw [categoryOf, if_neg (by omega), if_pos hhi]

theorem categoryOf_realTime {b : Byte} (h : 0xF8 ≤ b.toNat) : categoryOf b = .ok realTime := by
  have hframing : ¬(b = 0xF0#8 ∨ b = 0xF7#8) := not_or.2 ⟨ne_of_realTime h (by decide), ne_of_realTime h (by decide)⟩
  rw [categoryOf, if_neg (by omega), if_neg (by omega), if_neg hframing, if_neg (by omega)]

/-- Note off, note on, poly pressure and control change. -/
theorem lengthOf_noteOrControl {b : Byte} (hlo : 0x80 ≤ b.toNat) (hhi : b.toNat < 0xC0) : lengthOf b = .ok 3#2 := by
  rw [lengthOf, if_neg (by omega), if_pos hhi]

/-- Program change and channel pressure. -/
theorem lengthOf_programOrPressure {b : Byte} (hlo : 0xC0 ≤ b.toNat) (hhi : b.toNat < 0xE0) :
    lengthOf b = .ok 2#2 := by
  rw [lengthOf, if_neg (by omega), if_neg (by omega), if_pos hhi]

theorem lengthOf_pitchBend {b : Byte} (hlo : 0xE0 ≤ b.toNat) (hhi : b.toNat < 0xF0) : lengthOf b = .ok 3#2 := by
  rw [lengthOf, if_neg (by omega), if_neg (by omega), if_neg (by omega), if_pos hhi]

theorem lengthOf_realTime {b : Byte} (h : 0xF8 ≤ b.toNat) : lengthOf b = .ok 1#2 := by
  have hne {c : Byte} (hc : c.toNat < 0xF8) : b ≠ c := ne_of_realTime h hc
  rw [lengthOf, if_neg (by omega), if_neg (by omega), if_neg (by omega), if_neg (by omega), if_neg (hne (by decide)),
    if_neg (hne (by decide)), if_neg (hne (by decide))]

/-- Settles O10: the channel-voice and real-time bytes by their ranges, the system bytes below 0xF8 one by one. -/
theorem statusTableValues : Obligations.StatusTableValues := by
  intro b
  refine ⟨fun h => ?_, fun h => ?_, ?_, ?_, ?_, ?_, fun h => ⟨lengthOf_realTime h, categoryOf_realTime h⟩⟩
  · have hrange : (0x80 ≤ b.toNat ∧ b.toNat < 0xC0) ∨ (0xE0 ≤ b.toNat ∧ b.toNat < 0xF0) := by
      rcases h with h | h | h | h | h <;> have := range_of_highNibble h <;> bv_omega
    refine ⟨?_, categoryOf_channelVoice (by omega) (by omega)⟩
    rcases hrange with ⟨hlo, hhi⟩ | ⟨hlo, hhi⟩
    · exact lengthOf_noteOrControl hlo hhi
    · exact lengthOf_pitchBend hlo hhi
  · have hrange : 0xC0 ≤ b.toNat ∧ b.toNat < 0xE0 := by
      rcases h with h | h <;> have := range_of_highNibble h <;> bv_omega
    obtain ⟨hlo, hhi⟩ := hrange
    exact ⟨lengthOf_programOrPressure hlo hhi, categoryOf_channelVoice (by omega) (by omega)⟩
  · rintro (rfl | rfl) <;> exact ⟨rfl, rfl⟩
  · rintro rfl
    exact ⟨rfl, rfl⟩
  · rintro (rfl | rfl | rfl) <;> exact ⟨rfl, rfl⟩
  · rintro (rfl | rfl) <;> exact ⟨rfl, rfl⟩

/-! ## The domain and the outside call -/

theorem lengthOf_dataByte {b : Byte} (h : b.toNat < 0x80) : lengthOf b = .error (.tableDomain b) := if_pos h

theorem categoryOf_dataByte {b : Byte} (h : b.toNat < 0x80) : categoryOf b = .error (.tableDomain b) := if_pos h

/-- R75: the outside call records the fault that the table answers. -/
theorem callTable_of_error {b : Byte} {f : Fault} {s : State} (hf : s.faulted = none) (h : lengthOf b = .error f) :
    callTable b s = .next { s with faulted := some f } := by
  simp only [callTable, unlessFaulted_of_none hf, h, raiseFault]

/-- R72: where the table has a value, the call has no side effect. -/
theorem callTable_of_ok {b : Byte} {n : BitVec 2} {s : State} (hf : s.faulted = none) (h : lengthOf b = .ok n) :
    callTable b s = .next s := by
  simp only [callTable, unlessFaulted_of_none hf, h]

/-- Settles O11: below 0x80 both functions answer the fault and the call records it; a status byte has a length and a
category, so the call has no effect. -/
theorem tableDomainIsTheStatusBytes : Obligations.TableDomainIsTheStatusBytes := by
  refine fun b s hf => ⟨fun hdata => ?_, fun hstatus => ?_⟩
  · have hlen := lengthOf_dataByte hdata
    exact ⟨hlen, categoryOf_dataByte hdata, callTable_of_error hf hlen⟩
  · obtain ⟨n, hlen⟩ := lengthOf_status hstatus
    obtain ⟨c, hcat⟩ := categoryOf_status hstatus
    exact ⟨⟨n, c, hlen, hcat⟩, callTable_of_ok hf hlen⟩

end Sys2Proof.Machine
end

section
/-! PROOFS. Status bytes, SysEx framing, real-time bytes and SysEx data (41_parser.md R79 to R81, R84 to R87, R100 case
A): the frame with what the class's branch answers. -/

namespace Sys2Proof.Machine

/-! ## The branches inside and outside an active SysEx -/

theorem isSx_of_active {p : Parser} (h : p.sxs = .active) : p.isSx = true := (isSx_iff p).2 h

theorem isSx_of_not_active {p : Parser} (h : p.sxs ≠ .active) : p.isSx = false :=
  Bool.eq_false_iff.2 fun hx => h ((isSx_iff p).1 hx)

theorem statusBranch_inside {p : Parser} (h : p.sxs = .active) (b : Byte) : statusBranch b p = unterminated b p :=
  if_pos (isSx_of_active h)

theorem statusBranch_outside {p : Parser} (h : p.sxs ≠ .active) (b : Byte) : statusBranch b p = startStatus b p :=
  if_neg (by simp [isSx_of_not_active h])

theorem soxBranch_inside {p : Parser} (h : p.sxs = .active) : soxBranch p = unterminated 0xF0#8 p :=
  if_pos (isSx_of_active h)

theorem soxBranch_outside {p : Parser} (h : p.sxs ≠ .active) : soxBranch p = startSysEx p :=
  if_neg (by simp [isSx_of_not_active h])

theorem eoxBranch_inside {p : Parser} (h : p.sxs = .active) : eoxBranch p =
    .ok (.sysExByte 0xF7#8 false true, { p with sxs := .inactive, sxf := false, lastCat := sysExCat }) :=
  if_pos (isSx_of_active h)

theorem eoxBranch_outside {p : Parser} (h : p.sxs ≠ .active) : eoxBranch p = .ok (.pending, p) :=
  if_neg (by simp [isSx_of_not_active h])

theorem dataBranch_inside {p : Parser} (h : p.sxs = .active) (b : Byte) :
    dataBranch b p = .ok (.sysExByte b p.sxf false, { p with sxf := false }) := if_pos (isSx_of_active h)

theorem dataBranch_outside {p : Parser} (h : p.sxs ≠ .active) (b : Byte) : dataBranch b p = appendData b p :=
  if_neg (by simp [isSx_of_not_active h])

/-! ## What the frame makes of a branch's answer -/

/-- R76, R77: a PARSE that is not held runs Dispatch on the committed unit, writes `WAS_SX` and surfaces the result. -/
theorem exec_of_dispatch {i : Instr} {b : Byte} {s : State} {r : Result} {q : Parser} (hb : parseOperand i = some b)
    (hf : s.faulted = none) (hidle : s.framer.rlyAct = false)
    (h : dispatchByte b { s.parser with flt := s.parser.committedFlt } = .ok (r, q)) :
    exec i s = .next ((s.setParser { q with wasSx := s.parser.isSx }).returnResult (surface q.flt r)) := by
  rw [exec_of_parseOperand hb]
  exact parseFrame_ok hf hidle (parseUnit_ok.2 ⟨r, q, h, rfl, rfl⟩)

/-- R77: an open SysEx is no message boundary. -/
theorem committedFlt_of_active {p : Parser} (h : p.sxs = .active) : p.committedFlt = p.flt :=
  if_neg fun hboundary => hboundary.2 h

/-- R77 inside an active SysEx: no filter is committed, and `WAS_SX` is set. -/
theorem exec_inside {i : Instr} {b : Byte} {s : State} {r : Result} {q : Parser} (hb : parseOperand i = some b)
    (hf : s.faulted = none) (hidle : s.framer.rlyAct = false) (hs : s.parser.sxs = .active)
    (h : dispatchByte b s.parser = .ok (r, q)) :
    exec i s = .next ((s.setParser { q with wasSx := true }).returnResult (surface q.flt r)) := by
  rw [← isSx_of_active hs]
  exact exec_of_dispatch hb hf hidle (by rw [committedFlt_of_active hs]; exact h)

/-- R77 outside an active SysEx: `WAS_SX` is cleared. -/
theorem exec_outside {i : Instr} {b : Byte} {s : State} {r : Result} {q : Parser} (hb : parseOperand i = some b)
    (hf : s.faulted = none) (hidle : s.framer.rlyAct = false) (hs : s.parser.sxs ≠ .active)
    (h : dispatchByte b { s.parser with flt := s.parser.committedFlt } = .ok (r, q)) :
    exec i s = .next ((s.setParser { q with wasSx := false }).returnResult (surface q.flt r)) := by
  rw [← isSx_of_not_active hs]
  exact exec_of_dispatch hb hf hidle h

/-- Surface, R81, on a SysEx byte. -/
theorem surface_sysExByte (flt : Nibble) (b : Byte) (first last : Bool) :
    surface flt (.sysExByte b first last) = if flt &&& 0x8#4 ≠ 0x0#4 then .sysExByte b first last else .pending := by
  simp [surface, passes, sysExCat]

/-! ## Status bytes -/

/-- A status byte of length 2 or 3 is not 0xF0, 0xF7 or real-time. -/
theorem dispatchByte_long {b : Byte} {n : BitVec 2} (hlen : lengthOf b = .ok n) (hlong : n ≠ 1#2) :
    dispatchByte b = statusBranch b := by
  have hne : lengthOf b ≠ .ok 1#2 := fun h => hlong (Except.ok.inj (hlen.symm.trans h))
  refine dispatchByte_status (lengthOf_ok hlen).1 ?_ ?_ ?_
  · exact Nat.lt_of_not_le fun hrt => hne (lengthOf_realTime hrt)
  · rintro rfl
    exact hne rfl
  · rintro rfl
    exact hne rfl

/-- R84: but for 0xF0, the fresh status's answer with the error in place of its own result. -/
theorem unterminated_eq_map {b : Byte} {p : Parser} (hb : b ≠ 0xF0#8) :
    unterminated b p =
      (startStatus b { p with sxs := .errored, sxf := false }).map fun x => (.error .unterminatedSysEx b, x.2) := by
  simp only [unterminated, if_neg hb]
  cases startStatus b { p with sxs := .errored, sxf := false } <;> rfl

theorem unterminated_of_startStatus {b : Byte} {p q : Parser} {r : Result} (hb : b ≠ 0xF0#8)
    (h : startStatus b { p with sxs := .errored, sxf := false } = .ok (r, q)) :
    unterminated b p = .ok (.error .unterminatedSysEx b, q) := by
  rw [unterminated_eq_map hb, h]
  rfl

/-- R79: outside an active SysEx a status byte of length 2 or 3 waits for its data. -/
theorem dispatchByte_long_outside {b : Byte} {n : BitVec 2} {p : Parser} (hlen : lengthOf b = .ok n) (hlong : n ≠ 1#2)
    (hs : p.sxs ≠ .active) :
    dispatchByte b p = .ok (.pending, { p with rs := b, acc := p.acc.set 0 b, accN := 1#2, req := n }) := by
  rw [dispatchByte_long hlen hlong, statusBranch_outside hs, startStatus_long hlen hlong]

/-- R84: inside an active SysEx a status byte of length 2 or 3 is in force as a fresh status. -/
theorem dispatchByte_long_inside {b : Byte} {n : BitVec 2} {p : Parser} (hlen : lengthOf b = .ok n) (hlong : n ≠ 1#2)
    (hs : p.sxs = .active) : dispatchByte b p = .ok (.error .unterminatedSysEx b,
      { p with rs := b, sxs := .errored, sxf := false, acc := p.acc.set 0 b, accN := 1#2, req := n }) := by
  have hsox : b ≠ 0xF0#8 := by
    rintro rfl
    exact hlong (Except.ok.inj hlen).symm
  rw [dispatchByte_long hlen hlong, statusBranch_inside hs]
  exact unterminated_of_startStatus hsox (startStatus_long hlen hlong _)

/-- R98, R99: the status bytes of length 1 below 0xF7 but 0xF0. -/
def IsOneByteStatus (b : Byte) : Prop := b = 0xF4#8 ∨ b = 0xF5#8 ∨ b = 0xF6#8

theorem isOneByteStatus_of_class {i : Instr} {b : Byte} (hi : i = .parseTune ∨ ∃ x, i = .parseUndef x)
    (hb : parseOperand i = some b) : IsOneByteStatus b := by
  rcases hi with rfl | ⟨x, rfl⟩ <;> obtain rfl := Option.some.inj hb
  · exact .inr (.inr rfl)
  · have hbytes : ∀ x, undefByte x = 0xF4#8 ∨ undefByte x = 0xF5#8 ∨ undefByte x = 0xF6#8 := by decide
    exact hbytes x

theorem isOneByteStatus_of_lengthOf {b : Byte} (hlen : lengthOf b = .ok 1#2) (hle : b.toNat ≤ 0xF6)
    (hsox : b ≠ 0xF0#8) : IsOneByteStatus b := by
  have table : ∀ b : Byte, lengthOf b = .ok 1#2 → b.toNat ≤ 0xF6 → b ≠ 0xF0#8 →
      b = 0xF4#8 ∨ b = 0xF5#8 ∨ b = 0xF6#8 := by decide
  exact table b hlen hle hsox

theorem IsOneByteStatus.table {b : Byte} (h : IsOneByteStatus b) :
    lengthOf b = .ok 1#2 ∧ categoryOf b = .ok systemCommon ∧ b ≠ 0xF0#8 ∧ dispatchByte b = statusBranch b := by
  rcases h with rfl | rfl | rfl <;>
    exact ⟨rfl, rfl, by decide, dispatchByte_status (by decide) (by decide) (by decide) (by decide)⟩

/-- R79, R83: outside an active SysEx a status byte of length 1 finishes the message it starts. -/
theorem dispatchByte_one_outside {b : Byte} {p : Parser} (h : IsOneByteStatus b) (hs : p.sxs ≠ .active) :
    dispatchByte b p = .ok (.complete [b] 1#2 0x2#4,
      { p with rs := b, acc := p.acc.set 0 b, accN := 0#2, req := 1#2, lastCat := 0x2#4 }) := by
  obtain ⟨hlen, hcat, -, hclass⟩ := h.table
  rw [hclass, statusBranch_outside hs, startStatus_one hlen hcat]
  rfl

/-- R83, R84: inside an active SysEx it finishes the message too, under the error. -/
theorem dispatchByte_one_inside {b : Byte} {p : Parser} (h : IsOneByteStatus b) (hs : p.sxs = .active) :
    dispatchByte b p = .ok (.error .unterminatedSysEx b, { p with
      rs := b, sxs := .errored, sxf := false, acc := p.acc.set 0 b, accN := 0#2, req := 1#2, lastCat := 0x2#4 }) := by
  obtain ⟨hlen, hcat, hsox, hclass⟩ := h.table
  rw [hclass, statusBranch_inside hs]
  exact unterminated_of_startStatus hsox (startStatus_one hlen hcat _)

/-- Settles O18: a status byte of length 2 or 3 outside an active SysEx. -/
theorem longStatusStartsAMessage : Obligations.LongStatusStartsAMessage := by
  intro i b n s hb hlen hlong hf hidle hs
  exact exec_outside hb hf hidle hs (dispatchByte_long_outside hlen hlong hs)

/-- Settles O19: the two classes of a one-byte status outside an active SysEx. -/
theorem oneByteStatusCompletes : Obligations.OneByteStatusCompletes := by
  intro i b s hi hb hf hidle hs
  rw [← surface_complete]
  exact exec_outside hb hf hidle hs (dispatchByte_one_outside (isOneByteStatus_of_class hi hb) hs)

/-- Settles O20: the filter hides no error, and the status is in force as one of length 1, or of length 2 or 3. -/
theorem statusInsideSysExIsUnterminated : Obligations.StatusInsideSysExIsUnterminated := by
  intro i b n s hb hlen hle hsox hf hidle hs
  by_cases hone : n = 1#2
  · subst hone
    exact exec_inside hb hf hidle hs (dispatchByte_one_inside (isOneByteStatus_of_lengthOf hlen hle hsox) hs)
  · rw [if_neg hone, if_neg hone]
    exact exec_inside hb hf hidle hs (dispatchByte_long_inside hlen hone hs)

/-! ## SysEx framing -/

/-- Settles O21: StartSysEx, under the error inside an active SysEx. -/
theorem sysExStartOpens : Obligations.SysExStartOpens := by
  refine fun s hf hidle => ⟨fun hs => ?_, fun hs => ?_⟩
  · rw [← surface_sysExByte]
    exact exec_outside (i := .parseSox) rfl hf hidle hs ((congrFun dispatchByte_sox _).trans (soxBranch_outside hs))
  · exact exec_inside (i := .parseSox) rfl hf hidle hs ((congrFun dispatchByte_sox _).trans (soxBranch_inside hs))

/-- Settles O22: inside an active SysEx its last byte, outside a stray byte. -/
theorem endOfExclusiveCloses : Obligations.EndOfExclusiveCloses := by
  refine fun s hf hidle => ⟨fun hs => ?_, fun hs => ?_⟩
  · rw [← surface_sysExByte]
    exact exec_inside (i := .parseEox) rfl hf hidle hs ((congrFun dispatchByte_eox _).trans (eoxBranch_inside hs))
  · exact exec_outside (i := .parseEox) rfl hf hidle hs ((congrFun dispatchByte_eox _).trans (eoxBranch_outside hs))

/-! ## Real-time bytes and SysEx data -/

/-- Settles O23: the branch has one case, whatever the SysEx state. -/
theorem realTimeByteIsTransparent : Obligations.RealTimeByteIsTransparent := by
  intro x s hf hidle
  rw [← surface_complete]
  exact exec_of_dispatch (i := .parseRt x) rfl hf hidle (congrFun (dispatchByte_realTime x) _)

/-- Settles O24: case A of R100, whose flag is `SXF`. -/
theorem sysExDataByte : Obligations.SysExDataByte := by
  intro d s hf hidle hs
  rw [← surface_sysExByte]
  have hbranch := (congrFun (dispatchByte_data d) s.parser).trans (dataBranch_inside hs _)
  exact exec_inside (i := .parseData d) rfl hf hidle hs hbranch

end Sys2Proof.Machine
end

section
/-! PROOFS. Byte streams through the Parser unit (41_parser.md R101, R103): a status byte held in `ACC` and its data bytes
end in one completion, whether the status byte was received or is the running status. -/

namespace Sys2Proof.Machine

/-! ## One byte -/

theorem dispatchByte_data_outside {p : Parser} (h : p.sxs ≠ .active) (d : BitVec 7) :
    dispatchByte (dataByte d) p = appendData (dataByte d) p := by
  rw [dispatchByte_data, dataBranch_outside h]

theorem appendData_held {p : Parser} (h : p.accN ≠ 0#2) (b : Byte) : appendData b p = appendByte b p := if_neg h

/-- R82: a running status of length 2 or 3 starts a message, and the data byte goes to it. -/
theorem appendData_running {n : BitVec 2} {p : Parser} (hn : p.accN = 0#2) (hlen : lengthOf p.rs = .ok n)
    (hlong : n ≠ 1#2) (b : Byte) :
    appendData b p = appendByte b { p with acc := p.acc.set 0 p.rs, accN := 1#2, req := n } := by
  have hrs : p.rs ≠ 0x00#8 := fun h0 => by simp [h0, lengthOf] at hlen
  rw [appendData, if_pos hn, if_neg hrs]
  simp only [hlen, hlong, if_false]

/-- R77: Dispatch answers on the committed unit, the frame surfaces its result and writes `WAS_SX`. -/
theorem feedByte_of_dispatch {b : Byte} {p q : Parser} {r : Result}
    (h : dispatchByte b { p with flt := p.committedFlt } = .ok (r, q)) :
    feedByte b p = .ok (surface q.flt r, { q with wasSx := p.isSx }) := parseUnit_ok.2 ⟨r, q, h, rfl, rfl⟩

/-- R77, R100 case B: in a message in progress no filter is committed, and the data byte is appended. -/
theorem feedByte_of_append {d : BitVec 7} {p q : Parser} {r : Result} (hs : p.sxs ≠ .active) (hn : p.accN ≠ 0#2)
    (h : appendByte (dataByte d) p = .ok (r, q)) :
    feedByte (dataByte d) p = .ok (surface q.flt r, { q with wasSx := false }) := by
  have hcommit : p.committedFlt = p.flt := if_neg fun hboundary => hn hboundary.1
  rw [← isSx_of_not_active hs]
  apply feedByte_of_dispatch
  rw [hcommit, dispatchByte_data_outside hs, appendData_held hn, h]

theorem feedByte_more {d : BitVec 7} {p : Parser} (hs : p.sxs ≠ .active) (hn : p.accN ≠ 0#2) (hlt : p.accN.toNat < 3)
    (hmore : p.accN + 1#2 ≠ p.req) :
    feedByte (dataByte d) p = .ok (.pending,
      { p with acc := p.acc.set p.accN.toNat (dataByte d), accN := p.accN + 1#2, wasSx := false }) :=
  feedByte_of_append hs hn (appendByte_more hlt hmore)

/-- What the data bytes of one message leave: no message in progress, and the registers they do not write. -/
structure Parser.Completed (p q : Parser) : Prop where
  idle : q.accN = 0#2
  rs : q.rs = p.rs
  sxs : q.sxs = p.sxs
  flt : q.flt = p.flt
  fltPend : q.fltPend = p.fltPend

/-- R83: the last data byte, with a status byte first in `ACC`, completes the message. -/
theorem feedByte_last {d : BitVec 7} {c : Nibble} {p : Parser} (hs : p.sxs ≠ .active) (hn : p.accN ≠ 0#2)
    (hlt : p.accN.toNat < 3) (hlast : p.accN + 1#2 = p.req) (hc : categoryOf p.acc[0] = .ok c) :
    ∃ q, feedByte (dataByte d) p = .ok (if p.flt &&& c ≠ 0x0#4 then
        .complete ((p.acc.set p.accN.toNat (dataByte d)).toList.take p.req.toNat) p.req c else .pending, q) ∧
      p.Completed q := by
  have hpos : p.accN.toNat ≠ 0 := fun h => hn (BitVec.eq_of_toNat_eq h)
  have hstatus : categoryOf (p.acc.set p.accN.toNat (dataByte d))[0] = .ok c := by
    rw [Vector.getElem_set_ne _ _ hpos, hc]
  have hfeed := feedByte_of_append hs hn ((appendByte_last hlt hlast).trans (finish_ok hstatus))
  rw [surface_complete] at hfeed
  exact ⟨_, hfeed, rfl, rfl, rfl, rfl, rfl⟩

/-- R82, R100 case C: with no message in progress a data byte does what it does to the message that the running status
has started. -/
theorem feedByte_running {d : BitVec 7} {n : BitVec 2} {p : Parser} (hs : p.sxs ≠ .active) (hn : p.accN = 0#2)
    (hlen : lengthOf p.rs = .ok n) (hlong : n ≠ 1#2) :
    feedByte (dataByte d) p = feedByte (dataByte d) (p.runningMessage n) := by
  have hcommit : p.commitFilter = { p with flt := p.fltPend } := by
    rw [Parser.commitFilter_eq, Parser.committedFlt, if_pos ⟨hn, hs⟩]
  have hheld : (p.runningMessage n).commitFilter = p.runningMessage n := if_pos rfl
  have happend : dispatchByte (dataByte d) { p with flt := p.fltPend } =
      dispatchByte (dataByte d) (p.runningMessage n) :=
    calc dispatchByte (dataByte d) { p with flt := p.fltPend }
      _ = appendData (dataByte d) { p with flt := p.fltPend } :=
        dispatchByte_data_outside (p := { p with flt := p.fltPend }) hs d
      _ = appendByte (dataByte d) (p.runningMessage n) :=
        appendData_running (p := { p with flt := p.fltPend }) hn hlen hlong _
      _ = appendData (dataByte d) (p.runningMessage n) := (appendData_held (p := p.runningMessage n) nofun _).symm
      _ = dispatchByte (dataByte d) (p.runningMessage n) :=
        (dispatchByte_data_outside (p := p.runningMessage n) hs d).symm
  rw [feedByte, feedByte, parseUnit, parseUnit, hcommit, hheld, happend]
  rfl

/-! ## Streams -/

theorem feedBytes_cons {b : Byte} {bs : List Byte} {p q q' : Parser} {r : Result} {rs : List Result}
    (hb : feedByte b p = .ok (r, q)) (hbs : feedBytes bs q = .ok (rs, q')) :
    feedBytes (b :: bs) p = .ok (r :: rs, q') := by
  simp only [feedBytes, hb, hbs]

theorem feedBytes_cons_ok {b : Byte} {bs : List Byte} {p q' : Parser} {rs : List Result}
    (h : feedBytes (b :: bs) p = .ok (rs, q')) :
    ∃ r q rs', feedByte b p = .ok (r, q) ∧ feedBytes bs q = .ok (rs', q') ∧ rs = r :: rs' := by
  unfold feedBytes at h
  split at h
  · cases h
  · rename_i r q hb
    split at h
    · cases h
    · rename_i rs' q'' hbs
      cases h
      exact ⟨r, q, rs', hb, hbs, rfl⟩

theorem feedBytes_append {xs ys : List Byte} {p q q' : Parser} {rs rs' : List Result}
    (hx : feedBytes xs p = .ok (rs, q)) (hy : feedBytes ys q = .ok (rs', q')) :
    feedBytes (xs ++ ys) p = .ok (rs ++ rs', q') := by
  induction xs generalizing p rs with
  | nil =>
    cases hx
    exact hy
  | cons b xs ih =>
    obtain ⟨r, q₁, rs₁, hb, hbs, rfl⟩ := feedBytes_cons_ok hx
    exact feedBytes_cons hb (ih hbs)

/-! ## The data bytes of one message -/

/-- A message in progress of which `ACC` holds the status byte alone. -/
structure Parser.AwaitsData (p : Parser) (n : BitVec 2) (c : Nibble) : Prop where
  outside : p.sxs ≠ .active
  started : p.accN = 1#2
  length : p.req = n
  category : categoryOf p.acc[0] = .ok c

/-- The results of one message's data bytes (R82, R83): Pending but for the last, whose completion the filter may hide. -/
def completionResults (flt : Nibble) (status : Byte) (n : BitVec 2) (c : Nibble) (ds : List (BitVec 7)) : List Result :=
  List.replicate (n.toNat - 2) .pending ++
    [if flt &&& c ≠ 0x0#4 then .complete (status :: ds.map dataByte) n c else .pending]

theorem feedBytes_completes_two {p : Parser} {c : Nibble} (d : BitVec 7) (hp : p.AwaitsData 2#2 c) :
    ∃ q, feedBytes [dataByte d] p = .ok (completionResults p.flt p.acc[0] 2#2 c [d], q) ∧ p.Completed q := by
  obtain ⟨hs, hn, hreq, hc⟩ := hp
  obtain ⟨q, hlast, hq⟩ := feedByte_last (d := d) hs (by simp [hn]) (by simp [hn]) (by simp [hn, hreq]) hc
  refine ⟨q, ?_, hq⟩
  rw [feedBytes_cons hlast rfl]
  simp [completionResults, hn, hreq, acc_toList]

theorem feedBytes_completes_three {p : Parser} {c : Nibble} (d e : BitVec 7) (hp : p.AwaitsData 3#2 c) :
    ∃ q, feedBytes [dataByte d, dataByte e] p = .ok (completionResults p.flt p.acc[0] 3#2 c [d, e], q) ∧
      p.Completed q := by
  obtain ⟨hs, hn, hreq, hc⟩ := hp
  have hmore := feedByte_more (d := d) hs (by simp [hn]) (by simp [hn]) (by simp [hn, hreq])
  obtain ⟨q, hlast, hq⟩ := feedByte_last (d := e) (c := c)
    (p := { p with acc := p.acc.set p.accN.toNat (dataByte d) (by simp [hn]), accN := p.accN + 1#2, wasSx := false })
    hs (by simp [hn]) (by simp [hn]) (by simp [hn, hreq]) (by simpa [hn] using hc)
  refine ⟨q, ?_, hq.idle, hq.rs, hq.sxs, hq.flt, hq.fltPend⟩
  rw [feedBytes_cons hmore (feedBytes_cons hlast rfl)]
  simp [completionResults, hn, hreq, acc_toList]

/-- R82, R83: the data bytes after the status byte end in the completion. -/
theorem feedBytes_completes {p : Parser} {n : BitVec 2} {c : Nibble} {ds : List (BitVec 7)} (hp : p.AwaitsData n c)
    (hlong : n ≠ 1#2) (hds : ds.length + 1 = n.toNat) :
    ∃ q, feedBytes (ds.map dataByte) p = .ok (completionResults p.flt p.acc[0] n c ds, q) ∧ p.Completed q := by
  match ds, hds with
  | [], h => exact absurd (BitVec.eq_of_toNat_eq h.symm) hlong
  | [d], h =>
    obtain rfl : n = 2#2 := BitVec.eq_of_toNat_eq h.symm
    exact feedBytes_completes_two d hp
  | [d, e], h =>
    obtain rfl : n = 3#2 := BitVec.eq_of_toNat_eq h.symm
    exact feedBytes_completes_three d e hp
  | _ :: _ :: _ :: _, h => exact absurd n.isLt (by simp at h; omega)

/-! ## A status byte received -/

/-- R79, R84: after a status byte of length 2 or 3 its data bytes are awaited, whatever the parser state was. -/
theorem feedByte_long {b : Byte} {n : BitVec 2} {c : Nibble} (p : Parser) (hlen : lengthOf b = .ok n) (hlong : n ≠ 1#2)
    (hc : categoryOf b = .ok c) :
    ∃ q, feedByte b p = .ok (if p.sxs = .active then .error .unterminatedSysEx b else .pending, q) ∧
      q.AwaitsData n c ∧ q.acc[0] = b := by
  by_cases hs : p.sxs = .active
  · rw [if_pos hs]
    have hfeed := feedByte_of_dispatch
      (dispatchByte_long_inside (p := { p with flt := p.committedFlt }) hlen hlong hs)
    exact ⟨_, hfeed, ⟨nofun, rfl, rfl, by simpa using hc⟩, by simp⟩
  · rw [if_neg hs]
    have hfeed := feedByte_of_dispatch
      (dispatchByte_long_outside (p := { p with flt := p.committedFlt }) hlen hlong hs)
    exact ⟨_, hfeed, ⟨hs, rfl, rfl, by simpa using hc⟩, by simp⟩

/-- Settles O30: the status byte is in force at once, and its data bytes complete it. -/
theorem statusByteRecoversTheParser : Obligations.StatusByteRecoversTheParser := by
  intro p b n c ds hlen hc hlong hds
  obtain ⟨q, hstatus, hq, hfirst⟩ := feedByte_long p hlen hlong hc
  obtain ⟨p', hdata, hdone⟩ := feedBytes_completes hq hlong hds
  refine ⟨_, _, p', feedBytes_cons hstatus hdata, rfl, ?_⟩
  rw [completionResults, List.getLast?_concat, hfirst, hdone.flt]

/-! ## Groups of data bytes under a running status -/

/-- R82, R103: one group completes one message of the running status, and leaves it in force. -/
theorem feedBytes_group {p : Parser} {n : BitVec 2} {c : Nibble} {g : List (BitVec 7)} (hs : p.sxs ≠ .active)
    (hn : p.accN = 0#2) (hlen : lengthOf p.rs = .ok n) (hc : categoryOf p.rs = .ok c) (hlong : n ≠ 1#2)
    (hg : g.length + 1 = n.toNat) :
    ∃ q, feedBytes (g.map dataByte) p = .ok (completionResults p.fltPend p.rs n c g, q) ∧
      (p.runningMessage n).Completed q := by
  have hp : (p.runningMessage n).AwaitsData n c := ⟨hs, rfl, rfl, by simpa [Parser.runningMessage] using hc⟩
  obtain ⟨q, hfeed, hq⟩ := feedBytes_completes hp hlong hg
  have hrunning : feedBytes (g.map dataByte) p = feedBytes (g.map dataByte) (p.runningMessage n) := by
    cases g with
    | nil => exact absurd (BitVec.eq_of_toNat_eq hg.symm) hlong
    | cons d ds => rw [List.map_cons, feedBytes, feedBytes, feedByte_running hs hn hlen hlong]
  have hfirst : (p.runningMessage n).acc[0] = p.rs := by simp [Parser.runningMessage]
  rw [hfirst] at hfeed
  exact ⟨q, hrunning.trans hfeed, hq⟩

/-- Settles O31: group after group the same running status and pending filter are found. -/
theorem runningStatusRepeats : Obligations.RunningStatusRepeats := by
  intro p n c groups
  induction groups generalizing p with
  | nil =>
    intro _ hn _ _ _ _
    exact ⟨p, rfl, rfl, hn⟩
  | cons g gs ih =>
    intro hs hn hlen hc hlong hgroups
    obtain ⟨hg, hgs⟩ := List.forall_mem_cons.1 hgroups
    obtain ⟨q, hfeed, hq⟩ := feedBytes_group hs hn hlen hc hlong hg
    have hrs : q.rs = p.rs := hq.rs
    have hpend : q.fltPend = p.fltPend := hq.fltPend
    have hout : q.sxs ≠ .active := fun e => hs (hq.sxs.symm.trans e)
    obtain ⟨p', hrest, hrs', hidle⟩ := ih q hout hq.idle (hrs ▸ hlen) (hrs ▸ hc) hlong hgs
    rw [hrs, hpend] at hrest
    refine ⟨p', ?_, hrs'.trans hrs, hidle⟩
    rw [List.flatten_cons, List.map_append]
    exact feedBytes_append hfeed hrest

end Sys2Proof.Machine
end

section
/-! PROOFS. Non-interference of the filter and of real-time bytes (41_parser.md R102, R104): Dispatch reads neither the two
filter registers nor `LAST_CAT` nor `WAS_SX`. -/

namespace Sys2Proof.Machine

/-! ## The registers Dispatch does not read -/

/-- `p` with the registers of `o` that no procedure of the parser reads: the filters, `LAST_CAT` and `WAS_SX`. -/
def Parser.withUnreadOf (p o : Parser) : Parser :=
  { p with fltPend := o.fltPend, flt := o.flt, lastCat := o.lastCat, wasSx := o.wasSx }

/-- Two answers of one procedure, on a unit whose `LAST_CAT` is `cat` and on the same unit with the unread registers of
`o`: the same fault, or the same result and units that differ in unread registers alone. `LAST_CAT` agrees after it if
it did before. -/
inductive AnswersAlike (cat : Nibble) (o : Parser) : ParseStep → ParseStep → Prop where
  | error (f : Fault) : AnswersAlike cat o (.error f) (.error f)
  | ok (r : Result) (q : Parser) (cat' : Nibble) (h : cat = o.lastCat → cat' = q.lastCat) :
      AnswersAlike cat o (.ok (r, q)) (.ok (r, q.withUnreadOf { o with lastCat := cat' }))

theorem AnswersAlike.wrote {cat : Nibble} {o q : Parser} {r : Result} :
    AnswersAlike cat o (.ok (r, q)) (.ok (r, q.withUnreadOf { o with lastCat := q.lastCat })) :=
  .ok r q q.lastCat fun _ => rfl

theorem AnswersAlike.kept {cat : Nibble} {o q : Parser} {r : Result} (h : q.lastCat = cat) :
    AnswersAlike cat o (.ok (r, q)) (.ok (r, q.withUnreadOf o)) := .ok r q o.lastCat fun e => e.symm.trans h.symm

theorem AnswersAlike.withResult {cat : Nibble} {o : Parser} {x y : ParseStep} (h : AnswersAlike cat o x y) (r : Result) :
    AnswersAlike cat o (x.map fun a => (r, a.2)) (y.map fun a => (r, a.2)) := by
  cases h with
  | error f => exact .error f
  | ok _ q cat' hcat => exact .ok r q cat' hcat

/-- The procedure reads no unread register. -/
def IgnoresUnread (branch : Parser → ParseStep) : Prop :=
  ∀ (p o : Parser) (cat : Nibble), p.lastCat = cat → AnswersAlike cat o (branch p) (branch (p.withUnreadOf o))

theorem finish_ignoresUnread : IgnoresUnread finish := by
  intro p o cat _
  have hacc : (p.withUnreadOf o).acc = p.acc := rfl
  unfold finish
  rw [hacc]
  cases categoryOf p.acc[0] with
  | error f => exact .error f
  | ok c => exact .wrote

theorem startStatus_ignoresUnread (b : Byte) : IgnoresUnread (startStatus b) := by
  intro p o cat hcat
  unfold startStatus
  cases lengthOf b with
  | error f => exact .error f
  | ok n =>
    dsimp only
    split
    · exact finish_ignoresUnread _ o cat hcat
    · exact .kept hcat

theorem appendByte_ignoresUnread (b : Byte) : IgnoresUnread (appendByte b) := by
  intro p o cat hcat
  have hacc : (p.withUnreadOf o).acc = p.acc := rfl
  have hn : (p.withUnreadOf o).accN = p.accN := rfl
  have hreq : (p.withUnreadOf o).req = p.req := rfl
  unfold appendByte
  rw [hacc, hn]
  cases writeAcc p.acc p.accN b with
  | error f => exact .error f
  | ok acc =>
    dsimp only
    rw [hreq]
    split
    · exact finish_ignoresUnread _ o cat hcat
    · exact .kept hcat

theorem appendData_ignoresUnread (b : Byte) : IgnoresUnread (appendData b) := by
  intro p o cat hcat
  have hn : (p.withUnreadOf o).accN = p.accN := rfl
  have hrs : (p.withUnreadOf o).rs = p.rs := rfl
  unfold appendData
  rw [hn, hrs]
  split
  · split
    · exact .kept hcat
    · cases lengthOf p.rs with
      | error f => exact .error f
      | ok n =>
        dsimp only
        split
        · exact .kept hcat
        · exact appendByte_ignoresUnread b _ o cat hcat
  · exact appendByte_ignoresUnread b p o cat hcat

theorem unterminated_ignoresUnread (b : Byte) : IgnoresUnread (unterminated b) := by
  intro p o cat hcat
  by_cases hb : b = 0xF0#8
  · subst hb
    exact .kept (q := p.openSysEx) hcat
  · rw [unterminated_eq_map hb, unterminated_eq_map hb]
    have halike := startStatus_ignoresUnread b { p with sxs := .errored, sxf := false } o cat hcat
    exact halike.withResult _

theorem eoxBranch_ignoresUnread : IgnoresUnread eoxBranch := by
  intro p o cat hcat
  have hx : (p.withUnreadOf o).isSx = p.isSx := rfl
  unfold eoxBranch
  rw [hx]
  split
  · exact .wrote
  · exact .kept hcat

theorem dataBranch_ignoresUnread (b : Byte) : IgnoresUnread (dataBranch b) := by
  intro p o cat hcat
  have hx : (p.withUnreadOf o).isSx = p.isSx := rfl
  unfold dataBranch
  rw [hx]
  split
  · exact .kept hcat
  · exact appendData_ignoresUnread b p o cat hcat

theorem dispatchByte_ignoresUnread (b : Byte) : IgnoresUnread (dispatchByte b) := by
  intro p o cat hcat
  have hx : (p.withUnreadOf o).isSx = p.isSx := rfl
  unfold dispatchByte
  rw [hx]
  repeat' split
  · exact .wrote
  · exact eoxBranch_ignoresUnread p o cat hcat
  · exact unterminated_ignoresUnread b p o cat hcat
  · exact dataBranch_ignoresUnread b p o cat hcat
  · exact .kept hcat
  · exact .kept hcat
  · exact startStatus_ignoresUnread b p o cat hcat
  · exact appendData_ignoresUnread b p o cat hcat

/-! ## The filter -/

/-- PARSE on the unit, inverted for a fault: it is Dispatch's on the committed unit. -/
theorem parseUnit_error {branch : Parser → ParseStep} {p : Parser} {f : Fault} :
    parseUnit branch p = .error f ↔ branch { p with flt := p.committedFlt } = .error f := by
  unfold parseUnit
  rw [Parser.commitFilter_eq]
  cases branch { p with flt := p.committedFlt } <;> simp

/-- R102: the filters decide neither whether a byte faults nor any other register after it. -/
theorem parseUnit_of_filters (b : Byte) (p : Parser) (fl fp : Nibble) :
    (∀ f, parseUnit (dispatchByte b) p = .error f →
      parseUnit (dispatchByte b) { p with flt := fl, fltPend := fp } = .error f) ∧
    (∀ r q, parseUnit (dispatchByte b) p = .ok (r, q) →
      ∃ r' fl', parseUnit (dispatchByte b) { p with flt := fl, fltPend := fp } =
        .ok (r', { q with flt := fl', fltPend := fp })) := by
  have halike := dispatchByte_ignoresUnread b { p with flt := p.committedFlt }
    { p with flt := Parser.committedFlt { p with flt := fl, fltPend := fp }, fltPend := fp } p.lastCat rfl
  refine ⟨fun f h => ?_, fun r q h => ?_⟩
  · rw [parseUnit_error] at h ⊢
    rw [h] at halike
    generalize hy : dispatchByte b _ = y at halike
    cases halike
    exact hy
  · obtain ⟨r', q', hbranch, -, rfl⟩ := parseUnit_ok.1 h
    rw [hbranch] at halike
    generalize hy : dispatchByte b _ = y at halike
    cases halike with
    | ok _ _ cat' hcat =>
      obtain rfl := hcat rfl
      exact ⟨_, _, parseUnit_ok.2 ⟨_, _, hy, rfl, rfl⟩⟩

/-- Settles O29: held or not, faulting or not, the PARSE does the same under any filters. -/
theorem filterDoesNotSteerTheParser : Obligations.FilterDoesNotSteerTheParser := by
  intro i b s t fl fp hb h
  obtain ⟨hfault, hanswer⟩ := parseUnit_of_filters b s.parser fl fp
  rw [exec_of_parseOperand hb] at h ⊢
  obtain ⟨hf, ⟨hscan, rfl⟩ | ⟨hidle, ⟨f, hunit, rfl⟩ | ⟨r, q, hunit, rfl⟩⟩⟩ := parseFrame_next.1 h
  · exact ⟨_, parseFrame_next.2 ⟨hf, .inl ⟨hscan, rfl⟩⟩, rfl, rfl, rfl, rfl, rfl, rfl, rfl⟩
  · exact ⟨_, parseFrame_next.2 ⟨hf, .inr ⟨hidle, .inl ⟨f, hfault f hunit, rfl⟩⟩⟩, rfl, rfl, rfl, rfl, rfl, rfl, rfl⟩
  · obtain ⟨r', fl', hunit'⟩ := hanswer r q hunit
    obtain ⟨-, hpend, -⟩ := parseUnit_writes hunit
    exact ⟨_, parseFrame_ok hf hidle hunit', rfl, rfl, rfl, rfl, rfl, by simp, rfl⟩

/-! ## Real-time bytes -/

/-- Two units that a real-time byte more or less has told apart at most: they differ in `LAST_CAT`, `WAS_SX` and in an
`FLT` that the next commit writes anyway. -/
structure Parser.RealTimeTwins (p o : Parser) : Prop where
  unread : p.withUnreadOf o = o
  fltPend : p.fltPend = o.fltPend
  committed : p.committedFlt = o.committedFlt

theorem committedFlt_congr {p q : Parser} (hn : q.accN = p.accN) (hs : q.sxs = p.sxs) (hpend : q.fltPend = p.fltPend)
    (hflt : q.flt = p.flt) : q.committedFlt = p.committedFlt := by
  rw [Parser.committedFlt, hn, hs, hpend, hflt, Parser.committedFlt]

/-- The unit after a real-time byte (R77, R85). -/
def Parser.afterRealTime (p : Parser) : Parser :=
  { p with lastCat := realTime, flt := p.committedFlt, wasSx := p.isSx }

theorem feedByte_realTime {b : Byte} (hrt : isRealTime b = true) (p : Parser) :
    feedByte b p = .ok (surface p.committedFlt (.complete [b] 1#2 realTime), p.afterRealTime) :=
  feedByte_of_dispatch (if_pos (of_decide_eq_true hrt))

/-- Once committed, the filter stays until it is staged again. -/
@[simp] theorem Parser.afterRealTime_committedFlt (p : Parser) : p.afterRealTime.committedFlt = p.committedFlt := by
  by_cases h : p.accN = 0#2 ∧ p.sxs ≠ .active <;> simp [Parser.committedFlt, Parser.afterRealTime, h]

/-- R85: a real-time byte leaves a twin. -/
theorem Parser.RealTimeTwins.afterRealTime {p o : Parser} (h : p.RealTimeTwins o) : p.afterRealTime.RealTimeTwins o :=
  ⟨h.unread, h.fltPend, p.afterRealTime_committedFlt.trans h.committed⟩

/-- R77, R78: a byte gives the same result on twins, and leaves twins. -/
theorem feedByte_of_twins {b : Byte} {p q o : Parser} {r : Result} (htwins : p.RealTimeTwins o)
    (h : feedByte b p = .ok (r, q)) : ∃ o', feedByte b o = .ok (r, o') ∧ q.RealTimeTwins o' := by
  obtain ⟨hunread, hpend, hcommitted⟩ := htwins
  obtain ⟨r', q', hbranch, rfl, rfl⟩ := parseUnit_ok.1 h
  obtain ⟨hflt, hkept⟩ := dispatchByte_keepsFilter b _ _ _ hbranch
  have halike := dispatchByte_ignoresUnread b { p with flt := p.committedFlt } { o with flt := o.committedFlt }
    p.lastCat rfl
  have ho : Parser.withUnreadOf { p with flt := p.committedFlt } { o with flt := o.committedFlt } =
      { o with flt := o.committedFlt } := congrArg (fun x : Parser => { x with flt := o.committedFlt }) hunread
  rw [hbranch, ho] at halike
  generalize hy : dispatchByte b _ = y at halike
  cases halike with
  | ok _ _ cat' =>
    have hsame : q'.flt = o.committedFlt := hflt.trans hcommitted
    have hsurface : surface q'.flt r' = surface o.committedFlt r' := by rw [hsame]
    rw [hsurface]
    exact ⟨_, feedByte_of_dispatch hy, rfl, hkept.trans hpend, committedFlt_congr rfl rfl (hkept.trans hpend) hsame⟩

/-! ## Streams with and without real-time bytes -/

theorem withoutRealTime_cons (b : Byte) (bs : List Byte) :
    withoutRealTime (b :: bs) = if isRealTime b then withoutRealTime bs else b :: withoutRealTime bs := by
  cases h : isRealTime b <;> simp [withoutRealTime, h]

theorem resultsWithoutRealTime_cons (b : Byte) (bs : List Byte) (r : Result) (rs : List Result) :
    resultsWithoutRealTime (b :: bs) (r :: rs) =
      if isRealTime b then resultsWithoutRealTime bs rs else r :: resultsWithoutRealTime bs rs := by
  cases h : isRealTime b <;> simp [resultsWithoutRealTime, h]

/-- R104 on twins: byte by byte, a real-time one is left out and any other gives its result. -/
theorem feedBytes_withoutRealTime {bs : List Byte} {p o p' : Parser} {rs : List Result} (htwins : p.RealTimeTwins o)
    (h : feedBytes bs p = .ok (rs, p')) :
    ∃ o', feedBytes (withoutRealTime bs) o = .ok (resultsWithoutRealTime bs rs, o') ∧ p'.RealTimeTwins o' := by
  induction bs generalizing p o rs with
  | nil =>
    cases h
    exact ⟨o, rfl, htwins⟩
  | cons b bs ih =>
    obtain ⟨r, q, rs', hb, hbs, rfl⟩ := feedBytes_cons_ok h
    rw [withoutRealTime_cons, resultsWithoutRealTime_cons]
    split
    · rename_i hrt
      obtain ⟨-, rfl⟩ := Prod.mk.inj (Except.ok.inj ((feedByte_realTime hrt p).symm.trans hb))
      exact ih htwins.afterRealTime hbs
    · obtain ⟨o₁, hb', htwins'⟩ := feedByte_of_twins htwins hb
      obtain ⟨o', hbs', hend⟩ := ih htwins' hbs
      exact ⟨o', feedBytes_cons hb' hbs', hend⟩

/-- Settles O32: a unit is its own twin, and twins differ in the three registers alone. -/
theorem realTimeBytesCanBeDeleted : Obligations.RealTimeBytesCanBeDeleted := by
  intro bs p p' rs h
  obtain ⟨o', hfeed, hunread, hpend, -⟩ := feedBytes_withoutRealTime (p := p) (o := p) ⟨rfl, rfl, rfl⟩ h
  refine ⟨o', hfeed, ?_⟩
  rw [← hunread, Parser.withUnreadOf, ← hpend]

end Sys2Proof.Machine
end

section
/-! PROOFS. Runs of the TaskLoop's legal stimuli and RESET (60_exceptions.md R136, 41_parser.md R76, 42_encoder.md
R105): with no delivery and no report on offer every step answers, and leaves such a state. -/

namespace Sys2Proof.Machine

/-! ## No instruction adds an offer -/

@[simp] theorem advanceScan_env (s : State) (stop : Bool) : (s.advanceScan stop).env = s.env := by
  rcases advanceScan_cases s stop with ⟨-, e⟩ | ⟨-, -, e⟩ <;> rw [e] <;> rfl

theorem Env.ReadyIs.offers_eq {e e' : Env} {a : Bool} (h : e.ReadyIs a e') : e'.offers = e.offers := by
  rw [← nextReady_offers e, nextReady_iff.2 h]

theorem Env.SendIs.offers_eq {e e' : Env} {a : SendAnswer} (h : e.SendIs a e') : e'.offers = e.offers := by
  rw [← nextSend_offers e, nextSend_iff.2 h]

theorem exec_keeps_offers {i : Instr} {s t : State} (h : exec i s = .next t) : t.env.offers = s.env.offers := by
  cases effect_of_exec h with
  | unmoved | parsed | parseFault | staged | built | reported | spurious | latched | overrun | reset => rfl
  | accepted _ hanswer | refusedBusy _ hanswer => exact hanswer.offers_eq
  | notReady _ hanswer => exact hanswer.offers_eq
  | marked => rw [advanceScan_env]; rfl
  | sentEox _ hanswer | sentByte _ hanswer => rw [advanceScan_env]; exact hanswer.offers_eq

/-! ## Offers of the TaskLoop and of the reset source -/

/-- The instruction is neither a delivery nor a report, which alone can fault in a state that meets R25. -/
def FaultFree (i : Instr) : Prop := (∀ buf, i ≠ .rxbuf buf) ∧ i ≠ .txDone

theorem faultFree_of_parseOperand {i : Instr} {b : Byte} (h : parseOperand i = some b) : FaultFree i :=
  ⟨by rintro _ rfl; exact absurd h nofun, by rintro rfl; exact absurd h nofun⟩

theorem faultFree_of_encodeOperands {i : Instr} {x : Nibble × Byte × Byte} (h : encodeOperands i = some x) :
    FaultFree i := ⟨by rintro _ rfl; exact absurd h nofun, by rintro rfl; exact absurd h nofun⟩

theorem faultFree_decodeRelay (budZero : Bool) (b : Byte) : FaultFree (decodeRelay budZero b) := by
  unfold decodeRelay
  split_ifs <;> exact ⟨nofun, nofun⟩

/-- A legal word that is neither RXBUF's nor TXDONE's (30_encoding.md R66). -/
def Offer.Legal (o : Offer) : Prop :=
  ¬ IllegalWord o.word ∧ o.word.extractLsb' 28 4 ≠ 0x3#4 ∧ o.word.extractLsb' 28 4 ≠ 0x4#4

/-- It decodes, to a PARSE, an ENCODE, SETFILTER or RESET. -/
theorem Offer.Legal.decodes {o : Offer} (h : o.Legal) : ∃ i, decodeStimulus o.word o.buf = .ok i ∧ FaultFree i := by
  obtain ⟨source, w, buf⟩ := o
  obtain ⟨hlegal, hrx, htx⟩ := h
  dsimp only at hlegal hrx htx ⊢
  cases spelled_of_legal hlegal with
  | parse b => exact ⟨_, decodeStimulus_parseWord b buf, faultFree_of_parseOperand (parseOperand_decodeParse b)⟩
  | encode n d1 d2 =>
    exact ⟨_, decodeStimulus_encodeWord n d1 d2 buf, faultFree_of_encodeOperands (encodeOperands_decodeEncode n d1 d2)⟩
  | setFilter m => exact ⟨_, decodeStimulus_setFilterWord m buf, nofun, nofun⟩
  | rxbuf => exact absurd rfl hrx
  | txDone => exact absurd rfl htx
  | reset => exact ⟨.reset, rfl, nofun, nofun⟩

/-! ## Runs -/

/-- Not faulted, R25, and only legal PARSE, ENCODE, SETFILTER and RESET words on offer. -/
structure State.TaskLoopSafe (s : State) : Prop where
  notFaulted : s.faulted = none
  inv : s.parser.Inv
  legal : ∀ o ∈ s.env.offers, o.Legal

theorem State.TaskLoopSafe.setEnv {s : State} {e : Env} (hs : s.TaskLoopSafe)
    (he : ∀ o ∈ e.offers, o ∈ s.env.offers) : (s.setEnv e).TaskLoopSafe :=
  ⟨hs.notFaulted, hs.inv, fun o ho => hs.legal o (he o ho)⟩

/-- The step answers, and goes on to a safe state. -/
def AnswersSafely (x : StepOutcome) : Prop := ∃ t, x = .next t ∧ t.TaskLoopSafe

theorem exec_answersSafely {i : Instr} {s : State} (hs : s.TaskLoopSafe) (hi : FaultFree i) :
    AnswersSafely (exec i s) := by
  obtain ⟨hrx, htx⟩ := hi
  obtain ⟨t, ht⟩ := (exec_guarded i s).2 hs.notFaulted
  have hnone := not_faulted_of_effect (effect_of_exec ht) hs.notFaulted hs.inv hrx htx
  have hlegal : ∀ o ∈ t.env.offers, o.Legal := by
    rw [exec_keeps_offers ht]
    exact hs.legal
  exact ⟨t, ht, hnone, exec_keeps_parserInv i s t hs.inv ht, hlegal⟩

/-- A collaborator's turn: it has nothing to offer, its stimulus is held, or it is taken and runs. -/
theorem stepOffer_answersSafely {s : State} (hs : s.TaskLoopSafe) (c : Collaborator) :
    AnswersSafely (stepOffer c s) := by
  unfold stepOffer
  split
  · exact ⟨s, rfl, hs⟩
  · rename_i o ho
    obtain ⟨i, hdecode, hi⟩ := (hs.legal o (List.mem_of_find?_eq_some ho)).decodes
    rw [hdecode]
    dsimp only
    split
    · exact ⟨s, rfl, hs⟩
    · exact exec_answersSafely (hs.setEnv fun _ => mem_takeOffer) hi

theorem stepRelay_answersSafely {s : State} (hs : s.TaskLoopSafe) : AnswersSafely (stepRelay s) := by
  unfold stepRelay
  split
  · exact exec_answersSafely hs (faultFree_decodeRelay _ _)
  · exact ⟨s, rfl, hs⟩

theorem step_answersSafely {s : State} (hs : s.TaskLoopSafe) : AnswersSafely (step s) := by
  obtain ⟨a, e, hturn⟩ : ∃ a e, s.env.nextAgent = (a, e) := ⟨_, _, rfl⟩
  have hturn := nextAgent_iff.1 hturn
  have hs' : (s.setEnv e).TaskLoopSafe := hs.setEnv fun o ho => hturn.offers_eq ▸ ho
  rw [step_of_turn hs.notFaulted hturn]
  cases a with
  | offer c => exact stepOffer_answersSafely hs' c
  | txSend => exact exec_answersSafely (i := .txSend) hs' ⟨nofun, nofun⟩
  | relay => exact stepRelay_answersSafely hs'

/-- A run of any length from a safe state ends in one. -/
theorem run_answersSafely (n : Nat) {s : State} (hs : s.TaskLoopSafe) : AnswersSafely (core.run n s) := by
  induction n generalizing s with
  | zero => exact ⟨s, rfl, hs⟩
  | succ n ih =>
    obtain ⟨t, ht, hsafe⟩ := step_answersSafely hs
    obtain ⟨u, hu, hend⟩ := ih hsafe
    exact ⟨u, (run_succ_of_step (M := core) ht n).trans hu, hend⟩

/-- Settles O56: safety of one step, over the length of the run. -/
theorem legalTaskLoopRunsAreSafe : Obligations.LegalTaskLoopRunsAreSafe := by
  intro n s hf hp hlegal
  obtain ⟨t, ht, hsafe⟩ := run_answersSafely n (s := s) ⟨hf, hp, hlegal⟩
  exact ⟨t, ht, hsafe.notFaulted⟩

end Sys2Proof.Machine
end

section
/-! PROOFS. A packet in the slot (42_encoder.md R114): no effect but an accepted hand-off and RESET takes it out of the
slot, and none but the first makes an accepted offer. -/

namespace Sys2Proof.Machine

/-- From `s` to `t` the packet slot is as it was, and no packet was accepted. -/
structure KeepsSlot (s t : State) : Prop where
  full : t.framer.txs = s.framer.txs
  packet : t.framer.txp = s.framer.txp
  accepted : acceptedPackets t.log.calls = acceptedPackets s.log.calls

/-- The tail of a RELAY step writes the scan's registers and calls at most `requestNextBuffer`. -/
theorem KeepsSlot.advanceScan {s u : State} (stop : Bool) (h : KeepsSlot s u) : KeepsSlot s (u.advanceScan stop) := by
  obtain ⟨hfull, hpacket, haccepted⟩ := h
  rcases advanceScan_cases u stop with ⟨-, e⟩ | ⟨-, -, e⟩ <;> rw [e]
  · exact ⟨hfull, hpacket, by simpa [acceptedPackets] using haccepted⟩
  · exact ⟨hfull, hpacket, haccepted⟩

/-- A full slot is emptied by an accepted hand-off, or by RESET. -/
theorem keepsSlot_of_effect {i : Instr} {s t : State} (h : Effect i s t) (hfull : s.framer.txs = true)
    (hreset : i ≠ .reset) :
    KeepsSlot s t ∨ ∃ e, i = .txSend ∧
      t = ((s.setEnv e).call (.trySend s.framer.txp .accepted)).setFramer s.framer.accepted := by
  cases h with
  | unmoved | parsed | parseFault | staged | reported | spurious | latched | overrun => exact .inl ⟨rfl, rfl, rfl⟩
  | built hn hpacket hidle hempty => exact absurd (hfull.symm.trans hempty) nofun
  | accepted => exact .inr ⟨_, rfl, rfl⟩
  | refusedBusy | notReady => exact .inl ⟨rfl, rfl, by simp [acceptedPackets]⟩
  | reset => exact absurd rfl hreset
  | marked => exact .inl (KeepsSlot.advanceScan false ⟨rfl, rfl, rfl⟩)
  | sentEox | sentByte => exact .inl (KeepsSlot.advanceScan _ ⟨rfl, rfl, by simp [acceptedPackets]⟩)

/-- Settles O40: an instruction keeps the full slot, or it is the hand-off that was accepted. -/
theorem packetStaysUntilAccepted : Obligations.PacketStaysUntilAccepted := by
  intro i s t hfull h hreset
  obtain ⟨hkept, hpacket, haccepted⟩ | ⟨e, rfl, rfl⟩ := keepsSlot_of_effect (effect_of_exec h) hfull hreset
  · exact .inl ⟨hkept.trans hfull, hpacket, haccepted⟩
  · exact .inr ⟨rfl, rfl, rfl, rfl⟩

end Sys2Proof.Machine
end

section
/-! PROOFS. Mapped and unmapped ENCODE by the nibble (42_encoder.md R105, R110), and the table of holds
(60_exceptions.md R137). -/

namespace Sys2Proof.Machine

/-! ## Mapped and unmapped ENCODE -/

/-- The nibbles an ENCODE builds a packet for (42_encoder.md R105 to R109). -/
def MappedNibble (n : Nibble) : Prop := n = 0x8#4 ∨ n = 0x9#4 ∨ n = 0xE#4

/-- The open bits of the four ENCODE.NOP rows spell no mapped nibble. -/
theorem not_mappedNibble_nop :
    (∀ n : BitVec 3, ¬ MappedNibble (0#1 ++ n)) ∧ (∀ n : BitVec 1, ¬ MappedNibble (0x5#3 ++ n)) ∧
    (∀ n : BitVec 1, ¬ MappedNibble (0x6#3 ++ n)) ∧ ¬ MappedNibble 0xF#4 := by
  unfold MappedNibble
  decide

/-- 42_encoder.md R105, R110: a mapped ENCODE is held by a scan or a full slot; an unmapped one changes nothing and
only a scan holds it. -/
theorem encode_mapped_or_unmapped {i : Instr} {n : Nibble} {d1 d2 : Byte} (h : encodeOperands i = some (n, d1, d2)) :
    (MappedNibble n ∧ ∀ f, heldBy i f = f.encodeHold) ∨
    (¬ MappedNibble n ∧ exec i = encodeUnmapped ∧ ∀ f, heldBy i f = f.relayHold) := by
  obtain ⟨h07, hAB, hCD, hF⟩ := not_mappedNibble_nop
  cases i with
  | encodeNoteOff => cases h; exact .inl ⟨.inl rfl, fun _ => rfl⟩
  | encodeNoteOn => cases h; exact .inl ⟨.inr (.inl rfl), fun _ => rfl⟩
  | encodePb => cases h; exact .inl ⟨.inr (.inr rfl), fun _ => rfl⟩
  | encodeNop07 => cases h; exact .inr ⟨h07 _, rfl, fun _ => rfl⟩
  | encodeNopAB => cases h; exact .inr ⟨hAB _, rfl, fun _ => rfl⟩
  | encodeNopCD => cases h; exact .inr ⟨hCD _, rfl, fun _ => rfl⟩
  | encodeNopF => cases h; exact .inr ⟨hF, rfl, fun _ => rfl⟩
  | _ => cases h

/-- Settles O36: an ENCODE whose nibble is not mapped is `encodeUnmapped`. -/
theorem unmappedEncodeIsANoOp : Obligations.UnmappedEncodeIsANoOp := by
  intro i n d1 d2 s hn h8 h9 hE hf
  obtain ⟨hmapped, -⟩ | ⟨-, hx, -⟩ := encode_mapped_or_unmapped hn
  · rcases hmapped with h | h | h
    · exact absurd h h8
    · exact absurd h h9
    · exact absurd h hE
  · rw [hx]
    exact encodeUnmapped_next.2 ⟨hf, rfl⟩

/-! ## The table of holds -/

@[simp] theorem relayHold_eq_relayBusy {f : Framer} : f.relayHold = some .relayBusy ↔ f.rlyAct = true := by
  cases h : f.rlyAct <;> simp [Framer.relayHold, h]

@[simp] theorem relayHold_ne_txSlotFull (f : Framer) : f.relayHold ≠ some .txSlotFull := by
  cases h : f.rlyAct <;> simp [Framer.relayHold, h]

@[simp] theorem encodeHold_eq_relayBusy {f : Framer} : f.encodeHold = some .relayBusy ↔ f.rlyAct = true := by
  cases h : f.rlyAct <;> simp [Framer.encodeHold, h]

@[simp] theorem encodeHold_eq_txSlotFull {f : Framer} :
    f.encodeHold = some .txSlotFull ↔ f.txs = true ∧ f.rlyAct = false := by
  cases h : f.rlyAct <;> simp [Framer.encodeHold, h]

theorem heldBy_of_parseOperand {i : Instr} {b : Byte} (h : parseOperand i = some b) (f : Framer) :
    heldBy i f = f.relayHold := by
  cases i with
  | parseData | parseNoteOff | parseNoteOn | parsePolyKp | parseCc | parsePc | parseChp | parsePb | parseSox | parseMtc
  | parseSpp | parseSs | parseUndef | parseTune | parseEox | parseRt => rfl
  | _ => cases h

/-- The two holds of an ENCODE: RelayBusy keeps every one, TxSlotFull the mapped ones alone. -/
theorem heldBy_encode {i : Instr} {n : Nibble} {d1 d2 : Byte} (h : encodeOperands i = some (n, d1, d2)) (f : Framer) :
    (heldBy i f = some .relayBusy ↔ f.rlyAct = true) ∧
    (heldBy i f = some .txSlotFull ↔ MappedNibble n ∧ f.txs = true ∧ f.rlyAct = false) := by
  obtain ⟨hmapped, hheld⟩ | ⟨hmapped, -, hheld⟩ := encode_mapped_or_unmapped h <;> rw [hheld] <;> simp [hmapped]

theorem heldBy_txSend_relayBusy {f : Framer} : heldBy .txSend f = some .relayBusy ↔ f.rlyAct = true := by
  cases h : f.rlyAct <;> simp [heldBy, h]

theorem heldBy_txSend_txInflight {f : Framer} :
    heldBy .txSend f = some .txInflight ↔ f.rlyAct = false ∧ f.txs = true ∧ f.txInfl = true := by
  cases h : f.rlyAct <;> simp [heldBy, h]

/-- Settles O9: row by row of R137's table. -/
theorem holdsAreThoseOfTheTable : Obligations.HoldsAreThoseOfTheTable := fun f =>
  have hparse : ∀ i b, parseOperand i = some b → (heldBy i f = some .relayBusy ↔ f.rlyAct = true) :=
    fun _ _ hb => heldBy_of_parseOperand hb f ▸ relayHold_eq_relayBusy
  ⟨hparse, fun _ _ _ _ hn => heldBy_encode hn f, fun _ => relayHold_eq_relayBusy, heldBy_txSend_relayBusy,
    heldBy_txSend_txInflight, fun _ => rfl, rfl, rfl⟩

end Sys2Proof.Machine
end

section
/-! PROOFS. The turns of the internal steps (43_relay.md R117, 42_encoder.md R112), and TXDONE (R113). -/

namespace Sys2Proof.Machine

/-- During a scan RELAY runs the class of the byte it visits. -/
theorem stepRelay_of_busy {s : State} (h : s.framer.rlyAct = true) :
    stepRelay s = exec (decodeRelay s.framer.budZero s.framer.visited) s := if_pos h

/-- Outside a scan a RELAY turn passes. -/
theorem stepRelay_of_idle {s : State} (h : s.framer.rlyAct = false) : stepRelay s = .next s :=
  if_neg (by simp [h])

/-- Settles O7: the step is the scheduled agent's move, RELAY with and without a scan, and TXSEND. -/
theorem stepRunsTheInternalSteps : Obligations.StepRunsTheInternalSteps := fun _ _ hf =>
  ⟨fun ht hscan => (step_of_turn hf ht).trans (stepRelay_of_busy hscan),
    fun ht hidle => (step_of_turn hf ht).trans (stepRelay_of_idle hidle), fun ht => step_of_turn hf ht⟩

/-- Settles O38: the two cases of TXDONE's inversion, read from the case to the step. -/
theorem txDoneReportsThePacket : Obligations.TxDoneReportsThePacket := fun _ hf =>
  ⟨fun hflight => execTxDone_next.2 ⟨hf, .inl ⟨hflight, rfl⟩⟩,
    fun hflight => execTxDone_next.2 ⟨hf, .inr ⟨hflight, rfl⟩⟩⟩

end Sys2Proof.Machine
end

section
/-! PROOFS. The budget decrement (43_relay.md R116), and what RXBUF and the classes of a RELAY step do (R115 to R125). -/

namespace Sys2Proof.Machine

/-! ## The budget decrement -/

/-- R116: the floor is the largest of what the decrement may give. -/
theorem toInt_satDec (x : Budget) : (satDec x).toInt = max (-128) (x.toInt - 1) := by
  have hmin : -128 ≤ x.toInt := x.le_toInt
  have hmax : x.toInt < 128 := x.toInt_lt
  unfold satDec
  split
  case isTrue hfloor => rw [hfloor]; rfl
  case isFalse hfloor =>
    have hne : x.toInt ≠ -128 := hfloor
    rw [BitVec.toInt_ofInt_eq_self (by decide) (by norm_num; omega) (by norm_num; omega)]
    omega

theorem toInt_iterate_satDec (k : Nat) (x : Budget) : (satDec^[k] x).toInt = max (-128) (x.toInt - k) := by
  induction k with
  | zero =>
    have hmin : -128 ≤ x.toInt := x.le_toInt
    simpa using hmin
  | succ k ih =>
    rw [Function.iterate_succ_apply', toInt_satDec, ih]
    omega

/-- Settles O46: one decrement is a truncated subtraction of 1, and so `k` of them are one of `k`. -/
theorem budgetDecrementSaturates : Obligations.BudgetDecrementSaturates := by
  refine ⟨fun x => ?_, toInt_iterate_satDec⟩
  have hmin : -128 ≤ x.toInt := x.le_toInt
  rw [toInt_satDec]
  omega

/-! ## The delivery -/

/-- Settles O41: the two cases of RXBUF's inversion, read from the case to the step. -/
theorem deliveryLatchesTheBuffer : Obligations.DeliveryLatchesTheBuffer := fun _ _ hf =>
  ⟨fun hidle => execRxbuf_next.2 ⟨hf, .inl ⟨hidle, rfl⟩⟩, fun hscan => execRxbuf_next.2 ⟨hf, .inr ⟨hscan, rfl⟩⟩⟩

/-! ## The markers -/

/-- R118, R119: at budget 0 the visited marker sets the budget, and the tail of R117 follows. -/
theorem relayMarker_of_visit {marker : Byte} {s : State} (n : Budget) (hf : s.faulted = none)
    (hscan : s.framer.rlyAct = true) (hbud : s.framer.bud = 0#8) (hb : s.framer.visited = marker) :
    relayMarker marker n s = .next ((s.setFramer { s.framer with bud := n }).advanceScan false) := by
  have hzero : s.framer.budZero = true := beq_iff_eq.2 hbud
  refine relayMarker_next.2 ⟨hf, .inr ⟨visits_iff.2 ⟨hscan, hb⟩, hzero, ?_⟩⟩
  rw [hbud, BitVec.zero_add]

/-- Settles O42: both markers are one step, and its tail has two cases. -/
theorem markersSetTheBudget : Obligations.MarkersSetTheBudget := by
  intro s i n hf hscan hbud hi
  have hx : exec i s = .next ((s.setFramer { s.framer with bud := n }).advanceScan false) := by
    obtain ⟨rfl, hb, rfl⟩ | ⟨rfl, hb, rfl⟩ := hi
    · exact relayMarker_of_visit 3#8 hf hscan hbud hb
    · exact relayMarker_of_visit 1#8 hf hscan hbud hb
  rw [hx]
  exact ⟨fun hidx => congrArg _ (advanceScan_next hidx), fun hidx => congrArg _ (advanceScan_last (.inr hidx))⟩

/-! ## The emitting steps -/

section
variable {s : State} {e : Env} {b : Byte} {upd : Framer → Framer}

/-- R125, R117: on a ready link, before index 63, the byte is transmitted and the scan goes on. -/
theorem relayEmit_goes_on (hready : s.env.ReadyIs true e) (hidx : (upd s.framer).rlyIdx ≠ 63#6) :
    relayEmit b upd false s = .next { s with
      framer := { upd s.framer with rlyIdx := (upd s.framer).rlyIdx + 1#6 }
      env := e
      log := { s.log with calls := s.log.calls ++ [.transmitReady true, .transmitByte b] } } := by
  refine relayEmit_next.2 ⟨e, .inl ⟨hready, ?_⟩⟩
  rw [advanceScan_next hidx]
  simp [State.nextIndex, State.setFramer, State.setEnv, State.call]

/-- R125, R122: on a ready link, at an early stop or at index 63, the byte is transmitted and the scan ends. -/
theorem relayEmit_ends_scan {stop : Bool} (hready : s.env.ReadyIs true e)
    (hlast : stop = true ∨ (upd s.framer).rlyIdx = 63#6) :
    relayEmit b upd stop s = .next { s with
      framer := (upd s.framer).endScan
      env := e
      log := { s.log with calls := s.log.calls ++ [.transmitReady true, .transmitByte b, .requestNextBuffer] } } := by
  refine relayEmit_next.2 ⟨e, .inl ⟨hready, ?_⟩⟩
  rw [advanceScan_last hlast]
  simp [State.endScan, State.setFramer, State.setEnv, State.call]

/-- R125: on a link that is not ready the step only asks. -/
theorem relayEmit_waits {stop : Bool} (hbusy : s.env.ReadyIs false e) :
    relayEmit b upd stop s = .next ((s.setEnv e).call (.transmitReady false)) :=
  relayEmit_next.2 ⟨e, .inr ⟨hbusy, rfl⟩⟩

end

/-- R120: RELAY.EOX visiting its byte is an emitting step that stops the scan. -/
theorem execRelayEox_of_visit {s : State} (hf : s.faulted = none) (hscan : s.framer.rlyAct = true)
    (hb : s.framer.visited = 0xF7#8) :
    exec .relayEox s = relayEmit Config.eox (fun f => { f with bud := 0#8 }) true s := by
  rw [exec, execRelayEox, unlessFaulted_of_none hf]
  exact if_pos (visits_iff.2 ⟨hscan, hb⟩)

/-- The budget condition of RELAY.BYTE's row: the byte is no marker at budget 0. -/
theorem budgetCond_relayByte {bud : Budget} {b : Byte} : (Instr.relayByte b).budgetCond (bud == 0#8) = true ↔
    ¬ (bud = 0#8 ∧ (b = 0x04#8 ∨ b = 0x05#8)) := by
  simp [Instr.budgetCond, Config.mark3, Config.mark1, imp_iff_not_or]

theorem relaysByte_of_visit {f : Framer} {b : Byte} (hvisit : f.visits b = true) (hne : b ≠ 0xF7#8)
    (hmark : ¬ (f.bud = 0#8 ∧ (b = 0x04#8 ∨ b = 0x05#8))) : f.relaysByte b = true := by
  have heox : (b != Config.eox) = true := bne_iff_ne.2 hne
  have hcond : (Instr.relayByte b).budgetCond f.budZero = true := budgetCond_relayByte.2 hmark
  change (f.visits b && b != Config.eox && (Instr.relayByte b).budgetCond f.budZero) = true
  rw [hvisit, heox, hcond]
  rfl

/-- R121: RELAY.BYTE visiting a byte of its row is an emitting step. -/
theorem execRelayByte_of_visit {s : State} {b : Byte} (hf : s.faulted = none) (hscan : s.framer.rlyAct = true)
    (hb : s.framer.visited = b) (hne : b ≠ 0xF7#8) (hmark : ¬ (s.framer.bud = 0#8 ∧ (b = 0x04#8 ∨ b = 0x05#8))) :
    exec (.relayByte b) s = relayEmit b Framer.spend false s := by
  rw [exec, execRelayByte, unlessFaulted_of_none hf]
  exact if_pos (relaysByte_of_visit (visits_iff.2 ⟨hscan, hb⟩) hne hmark)

/-- Settles O43: RELAY.EOX's step stops the scan at any index. -/
theorem relayedEndOfExclusiveStopsTheScan : Obligations.RelayedEndOfExclusiveStopsTheScan := by
  intro s e hf hscan hb hready
  rw [execRelayEox_of_visit hf hscan hb]
  exact relayEmit_ends_scan hready (.inl rfl)

/-- Settles O44: RELAY.BYTE's step goes on, or ends the scan at index 63. -/
theorem relayedByteSpendsTheBudget : Obligations.RelayedByteSpendsTheBudget := by
  intro s b e hf hscan hb hne hmark hready
  rw [execRelayByte_of_visit hf hscan hb hne hmark]
  exact ⟨fun hidx => relayEmit_goes_on hready hidx, fun hidx => relayEmit_ends_scan hready (.inr hidx)⟩

/-- R117: at every budget the class of 0xF7 is RELAY.EOX. -/
theorem decodeRelay_eox (budZero : Bool) : decodeRelay budZero 0xF7#8 = .relayEox := by
  cases budZero <;> rfl

/-- R117, R121: a byte that is neither 0xF7 nor a marker at budget 0 is RELAY.BYTE's. -/
theorem decodeRelay_of_not_marker {bud : Budget} {b : Byte} (hne : b ≠ 0xF7#8)
    (hmark : ¬ (bud = 0#8 ∧ (b = 0x04#8 ∨ b = 0x05#8))) : decodeRelay (bud == 0#8) b = .relayByte b :=
  decodeRelay_byte (bne_iff_ne.2 hne) (budgetCond_relayByte.2 hmark)

/-- Settles O45: the class of a byte that is no marker is an emitting step, which only asks. -/
theorem serialNotReadyHoldsTheRelay : Obligations.SerialNotReadyHoldsTheRelay := by
  intro s e hf hscan hbusy hmark
  by_cases hb : s.framer.visited = 0xF7#8
  · rw [hb, decodeRelay_eox, execRelayEox_of_visit hf hscan hb]
    exact relayEmit_waits hbusy
  · rw [decodeRelay_of_not_marker hb hmark, execRelayByte_of_visit hf hscan rfl hb hmark]
    exact relayEmit_waits hbusy

end Sys2Proof.Machine
end

section
/-! PROOFS. What a negative budget switches off (70_reset_and_hazards.md R160), and when the next buffer is asked for
(43_relay.md R122, 70_reset_and_hazards.md R151). -/

namespace Sys2Proof.Machine

/-! ## A negative budget -/

@[simp] theorem advanceScan_bud (s : State) (stop : Bool) : (s.advanceScan stop).framer.bud = s.framer.bud := by
  rcases advanceScan_cases s stop with ⟨-, e⟩ | ⟨-, -, e⟩ <;> rw [e] <;> rfl

/-- Settles O49: a marker needs budget 0, and of the other effects RELAY.BYTE's alone writes the budget or, in a scan,
the index. -/
theorem negativeBudgetSwitchesMarkersOff : Obligations.NegativeBudgetSwitchesMarkersOff := by
  intro i s t hneg h hreset heox
  cases effect_of_exec h with
  | unmoved | parsed | parseFault | staged | built | accepted | refusedBusy | reported | spurious | overrun | notReady =>
    exact ⟨hneg, le_rfl, fun hmoved => absurd rfl hmoved⟩
  | latched hidle => exact ⟨hneg, le_rfl, fun _ hscan => absurd (hscan.symm.trans hidle) nofun⟩
  | reset => exact absurd rfl hreset
  | sentEox => exact absurd rfl heox
  | marked hi hvisit hzero =>
    have hbud : s.framer.bud = 0#8 := beq_iff_eq.1 hzero
    simp [hbud] at hneg
  | sentByte hrelay =>
    obtain ⟨hle, -, -⟩ := satDec_bounds s.framer.bud
    rw [advanceScan_bud]
    refine ⟨hle.trans_lt hneg, hle, fun _ _ => ?_⟩
    exact (serialBytes_of_visit (visits_of_relaysByte hrelay) (serialBytes_emit ..)).1

/-! ## The re-arm -/

/-- From `s` to `t` `requestNextBuffer` is called once if the scan ended, and not otherwise. -/
def RearmsAtScanEnd (s t : State) : Prop :=
  rearmCount t.log.calls = rearmCount s.log.calls + (if s.framer.rlyAct = true ∧ t.framer.rlyAct = false then 1 else 0)

theorem rearmsAtScanEnd_of_kept {s t : State} (hscan : s.framer.rlyAct = true → t.framer.rlyAct = true)
    (hcalls : rearmCount t.log.calls = rearmCount s.log.calls) : RearmsAtScanEnd s t := by
  have hkept : ¬ (s.framer.rlyAct = true ∧ t.framer.rlyAct = false) := fun ⟨hs, ht⟩ => by simp [hscan hs] at ht
  rw [RearmsAtScanEnd, if_neg hkept, hcalls, Nat.add_zero]

/-- R122: the tail of a RELAY step calls `requestNextBuffer` when it ends the scan. -/
theorem rearmsAtScanEnd_advanceScan {s u : State} (stop : Bool) (hs : s.framer.rlyAct = true)
    (hu : u.framer.rlyAct = true) (hcalls : rearmCount u.log.calls = rearmCount s.log.calls) :
    RearmsAtScanEnd s (u.advanceScan stop) := by
  rcases advanceScan_cases u stop with ⟨-, e⟩ | ⟨-, -, e⟩ <;> rw [e]
  · rw [RearmsAtScanEnd, if_pos ⟨hs, rfl⟩, endScan_calls, rearmCount_append, hcalls]
    rfl
  · exact rearmsAtScanEnd_of_kept (fun _ => hu) hcalls

/-- No effect but RESET and the tail of a RELAY step ends a scan. -/
theorem rearmsAtScanEnd_of_effect {i : Instr} {s t : State} (h : Effect i s t) (hreset : i ≠ .reset) :
    RearmsAtScanEnd s t := by
  cases h with
  | unmoved | parsed | parseFault | staged | built | reported | spurious | overrun =>
    exact rearmsAtScanEnd_of_kept id rfl
  | accepted | refusedBusy | notReady => exact rearmsAtScanEnd_of_kept id (by simp [rearmCount])
  | latched => exact rearmsAtScanEnd_of_kept (fun _ => rfl) rfl
  | reset => exact absurd rfl hreset
  | marked hi hvisit =>
    have hscan := (visits_iff.1 hvisit).1
    exact rearmsAtScanEnd_advanceScan false hscan hscan rfl
  | sentEox hvisit =>
    have hscan := (visits_iff.1 hvisit).1
    exact rearmsAtScanEnd_advanceScan true hscan hscan (by simp [rearmCount])
  | sentByte hrelay =>
    have hscan := scan_of_relaysByte hrelay
    exact rearmsAtScanEnd_advanceScan false hscan hscan (by simp [rearmCount])

/-- Settles O51: RESET calls nothing, and every other instruction re-arms at the end of a scan. -/
theorem rearmExactlyAtScanEnd : Obligations.RearmExactlyAtScanEnd := by
  intro i s t h
  by_cases hreset : i = .reset
  · subst hreset
    rw [exec, execReset, unlessFaulted_next] at h
    cases h.2
    simp
  · simpa [RearmsAtScanEnd, hreset] using rearmsAtScanEnd_of_effect (effect_of_exec h) hreset

end Sys2Proof.Machine
end

section
/-! PROOFS. SETFILTER, 44_control.md: it stages the mask in `FLT_PEND`. -/

namespace Sys2Proof.Machine

/-- R127: SETFILTER with no scan active writes `FLT_PEND` alone. -/
theorem exec_setFilter_of_idle (m : Nibble) {s : State} (hf : s.faulted = none) (hidle : s.framer.rlyAct = false) :
    exec (.setFilter m) s = .next (s.setParser { s.parser with fltPend := m }) := by
  rw [exec, execSetFilter, unlessFaulted_of_none hf, unlessRelayBusy_of_idle hidle]

/-- Settles O34: the state after one SETFILTER is as free to take the next, which writes the value already there. -/
theorem setFilterStagesTheMask : Obligations.SetFilterStagesTheMask := by
  intro m s hf hidle
  have honce := exec_setFilter_of_idle m hf hidle
  refine ⟨honce, fun t ht => ?_⟩
  cases honce.symm.trans ht
  exact exec_setFilter_of_idle m hf hidle

end Sys2Proof.Machine
end

section
/-! PROOFS. The held steps (60_exceptions.md R137), the discarded data byte (R133), the quiescent state (R147) and RESET
(70_reset_and_hazards.md R149). -/

namespace Sys2Proof.Machine

/-! ## A held instruction changes nothing -/

theorem relayHold_ne_none {f : Framer} : f.relayHold ≠ none ↔ f.rlyAct = true := by
  cases h : f.rlyAct <;> simp [Framer.relayHold, h]

theorem encodeHold_ne_none {f : Framer} : f.encodeHold ≠ none ↔ f.rlyAct = true ∨ f.txs = true := by
  cases h : f.rlyAct <;> simp [Framer.encodeHold, h]

/-- 42_encoder.md R105: a held ENCODE meets a scan or a full slot. -/
theorem scan_or_full_of_held_encode {i : Instr} {n : Nibble} {d1 d2 : Byte} {f : Framer}
    (hn : encodeOperands i = some (n, d1, d2)) (h : heldBy i f ≠ none) : f.rlyAct = true ∨ f.txs = true := by
  obtain ⟨-, hheld⟩ | ⟨-, -, hheld⟩ := encode_mapped_or_unmapped hn <;> rw [hheld] at h
  · exact encodeHold_ne_none.1 h
  · exact .inl (relayHold_ne_none.1 h)

/-- 42_encoder.md R112: a held TXSEND is not enabled. -/
theorem sendEnabled_of_held {f : Framer} (h : heldBy .txSend f ≠ none) : f.sendEnabled = false := by
  refine Bool.eq_false_iff.2 fun henabled => h ?_
  obtain ⟨-, hflight, hidle⟩ := sendEnabled_iff.1 henabled
  simp [heldBy, hflight, hidle]

theorem exec_of_held_parse {i : Instr} {b : Byte} {s : State} (hb : parseOperand i = some b) (hf : s.faulted = none)
    (h : heldBy i s.framer ≠ none) : exec i s = .next s := by
  rw [heldBy_of_parseOperand hb] at h
  exact (scanHoldsTheTaskLoop i s hf (relayHold_ne_none.1 h)).1 (.inl ⟨b, hb⟩)

theorem exec_of_held_encode {i : Instr} {n : Nibble} {d1 d2 : Byte} {s : State}
    (hn : encodeOperands i = some (n, d1, d2)) (hf : s.faulted = none) (h : heldBy i s.framer ≠ none) :
    exec i s = .next s := by
  obtain ⟨cin, st, e1, e2, -, hx⟩ | hx := exec_of_encodeOperands hn <;> rw [hx]
  · exact encodeMapped_next.2 ⟨hf, .inl ⟨scan_or_full_of_held_encode hn h, rfl⟩⟩
  · exact encodeUnmapped_next.2 ⟨hf, rfl⟩

/-- R137: an instruction that the state holds answers that state. -/
theorem exec_of_held {i : Instr} {s : State} (hf : s.faulted = none) (h : heldBy i s.framer ≠ none) :
    exec i s = .next s := by
  cases i with
  | parseData | parseNoteOff | parseNoteOn | parsePolyKp | parseCc | parsePc | parseChp | parsePb | parseSox | parseMtc
  | parseSpp | parseSs | parseUndef | parseTune | parseEox | parseRt => exact exec_of_held_parse rfl hf h
  | encodeNoteOff | encodeNoteOn | encodePb | encodeNop07 | encodeNopAB | encodeNopCD | encodeNopF =>
    exact exec_of_held_encode rfl hf h
  | setFilter m =>
    exact (scanHoldsTheTaskLoop _ s hf (relayHold_ne_none.1 h)).1 (.inr (.inr (.inl ⟨m, rfl⟩)))
  | txSend => exact execTxSend_next.2 ⟨hf, .inl ⟨sendEnabled_of_held h, rfl⟩⟩
  | rxbuf | txDone | reset | relayMark3 | relayMark1 | relayEox | relayByte => exact absurd rfl h

/-- R137: a collaborator's turn leaves a stimulus that a hold keeps on offer. -/
theorem stepOffer_of_held {c : Collaborator} {s : State} {o : Offer} {i : Instr} (ho : s.env.offerOf c = some o)
    (hd : decodeStimulus o.word o.buf = .ok i) (hh : heldBy i s.framer ≠ none) : stepOffer c s = .next s := by
  obtain ⟨hold, hhold⟩ := Option.ne_none_iff_exists'.1 hh
  simp only [stepOffer, ho, hd, hhold, heldStep]

/-- Settles O8: the scheduled collaborator's offer is held, and using up the turn takes no offer. -/
theorem heldStimulusStaysOffered : Obligations.HeldStimulusStaysOffered := by
  refine ⟨fun s c e o i hf ht ho hd hh => ⟨?_, ht.offers_eq⟩, fun i s => exec_of_held⟩
  have hoffer : (s.setEnv e).env.offerOf c = some o := (ht.offerOf_eq c).trans ho
  exact (step_of_turn hf ht).trans (stepOffer_of_held hoffer hd hh)

/-! ## A data byte with no governing status -/

/-- R133, 41_parser.md R100 case D: AppendData writes nothing. -/
theorem appendData_orphan {p : Parser} (hn : p.accN = 0#2) (hrs : p.rs = 0x00#8 ∨ lengthOf p.rs = .ok 1#2) (b : Byte) :
    appendData b p = .ok (.error .dataByteWithoutStatus b, p) := by
  rw [appendData, if_pos hn]
  by_cases hnone : p.rs = 0x00#8
  · rw [if_pos hnone]
  · have hlen : lengthOf p.rs = .ok 1#2 := hrs.resolve_left hnone
    simp only [if_neg hnone, hlen, if_pos]

theorem dispatchByte_orphan {p : Parser} (hs : p.sxs ≠ .active) (hn : p.accN = 0#2)
    (hrs : p.rs = 0x00#8 ∨ lengthOf p.rs = .ok 1#2) (d : BitVec 7) :
    dispatchByte (dataByte d) p = .ok (.error .dataByteWithoutStatus (dataByte d), p) :=
  (dispatchByte_data_outside hs d).trans (appendData_orphan hn hrs _)

/-- R77: outside a message and an active SysEx the frame commits the pending filter. -/
theorem committedFlt_of_boundary {p : Parser} (hn : p.accN = 0#2) (hs : p.sxs ≠ .active) : p.committedFlt = p.fltPend :=
  if_pos ⟨hn, hs⟩

/-- Settles O27: the frame around case D, whose error the filter does not hide. -/
theorem orphanDataByteIsDiscarded : Obligations.OrphanDataByteIsDiscarded := by
  intro d s hf hidle hs hn hrs
  have hx := exec_outside (i := .parseData d) rfl hf hidle hs
    (dispatchByte_orphan (p := { s.parser with flt := s.parser.committedFlt }) hs hn hrs d)
  rw [committedFlt_of_boundary hn hs] at hx
  exact hx

/-! ## A quiescent state -/

theorem stepOffer_of_no_offers (c : Collaborator) {s : State} (h : s.env.offers = []) : stepOffer c s = .next s := by
  have hnone : s.env.offerOf c = none := by rw [Env.offerOf, h, List.find?_nil]
  simp only [stepOffer, hnone, idleStep]

/-- 70_reset_and_hazards.md R164: in a quiescent state no agent's move changes anything. -/
theorem stepAgent_of_quiescent (a : Agent) {s : State} (hf : s.faulted = none) (hq : s.Quiescent) :
    stepAgent a s = .next s := by
  obtain ⟨hoffers, hidle, hslot⟩ := hq
  cases a with
  | offer c => exact stepOffer_of_no_offers c hoffers
  | relay => exact stepRelay_of_idle hidle
  | txSend => exact (txSendOffersTheSlot s hf).2 (hslot.imp_right .inl)

/-- Settles O58: the scheduled agent finds nothing to do, and using up its turn takes no offer. -/
theorem quiescentStateIsIdle : Obligations.QuiescentStateIsIdle := by
  intro s hf ⟨hoffers, hidle, hslot⟩
  have hturn : s.env.TurnIs s.env.nextAgent.1 s.env.nextAgent.2 := nextAgent_iff.1 rfl
  have hturned : (s.setEnv s.env.nextAgent.2).Quiescent := ⟨hturn.offers_eq.trans hoffers, hidle, hslot⟩
  have hstep := (step_of_turn hf hturn).trans (stepAgent_of_quiescent _ hf hturned)
  exact ⟨_, hstep, rfl, rfl, rfl, hf, hturn.offers_eq, hturned⟩

/-! ## RESET -/

/-- 70_reset_and_hazards.md R149: RESET writes the registers of both units, whatever is held or scanned. -/
theorem exec_reset {s : State} (hf : s.faulted = none) :
    exec .reset s = .next ((s.setParser s.parser.resetRegs).setFramer s.framer.resetRegs) := by
  rw [exec, execReset, unlessFaulted_of_none hf]

/-- Settles O13: RESET has one guard, the recorded fault. -/
theorem resetWritesTheListedRegisters : Obligations.ResetWritesTheListedRegisters := fun s =>
  ⟨fun hf => exec_reset hf, fun f hf => (faultedStateHasNoStep s f hf).2 .reset⟩

end Sys2Proof.Machine
end

section
/-! PROOFS. What RESET leaves behind (70_reset_and_hazards.md R149, R150). -/

namespace Sys2Proof.Machine

/-- RESET answers a next state only from an unfaulted state, and then the one R149 writes. -/
theorem exec_reset_next {s t : State} : exec .reset s = .next t ↔
    s.faulted = none ∧ t = (s.setParser s.parser.resetRegs).setFramer s.framer.resetRegs := by
  rw [exec, execReset, unlessFaulted_next, Host.Outcome.next.injEq, eq_comm (b := t)]

/-- 30_encoding.md R59: the filter RESET writes lets every category of a result pass. -/
theorem fltReset_passes_category {c : Nibble} (h : c = 0x1#4 ∨ c = 0x2#4 ∨ c = 0x4#4 ∨ c = 0x8#4) :
    Config.fltReset &&& c ≠ 0x0#4 := by
  rcases h with rfl | rfl | rfl | rfl <;> decide

/-- Settles O15: the state after RESET has no message, no running status and no scan, so its data byte is R133's
orphan; both filters are equal there, so the frame's commit changes nothing. -/
theorem resetForgetsTheMessage : Obligations.ResetForgetsTheMessage := by
  intro s t d h
  obtain ⟨hf, rfl⟩ := exec_reset_next.1 h
  exact ⟨orphanDataByteIsDiscarded d _ hf rfl (by simp [Parser.resetRegs]) rfl (.inl rfl),
    fun _ => fltReset_passes_category⟩

end Sys2Proof.Machine
end
